-- ==== Sys2Proof/Word.lean ====
section
/-! DEFINITION. The words of the PB-46: what the manual treats as bits. -/

namespace Sys2Proof

/-- One byte, on one byte lane. -/
abbrev Byte := BitVec 8

/-- A device address, called an offset: 0000H to FFFFH (section 1.6.2). -/
abbrev Offset := BitVec 16

/-- One halfword in lane positions: lane Low in bits 7 to 0, lane High in bits 15 to 8. -/
abbrev LaneWord := BitVec 16

/-- A posting number, 1 to 65535; 0 means none (section 1.6.3). -/
abbrev PN := BitVec 16

/-- One 32-bit word of the register window or of the host data lines (R153, R159). -/
abbrev Word := BitVec 32

/-- A target number, which is also a select line's and an attention input's (R9). -/
abbrev Target := Fin 8

/-- A fetch slot's number (R89). -/
abbrev SlotNo := Fin 4

/-- A watch comparator's number (section 9.1). -/
abbrev ComparatorNo := Fin 4

end Sys2Proof
end

