-- ==== Sys2Proof/Syntax.lean ====
section
/-! DEFINITION. The commands of the PB-46: one constructor for each row of spec/opcode_table.json.
A command is a host cycle on one of the two selects, or one of the events the manual calls arrivals
(section 1.6.5). -/

namespace Sys2Proof

/-- The size of a host cycle, given by how many byte enables are asserted (R159). -/
inductive CycleSize where
  | byte
  | half
  | word
  /-- No byte enable asserted, or three. -/
  | unsized
  deriving DecidableEq, Repr

/-- The commands of the PB-46. -/
inductive Instr where
  /-- A write on the aperture select: the aperture offset, the size, and host data lines 0 to 31 (R23). -/
  | apertureWrite (offset : Offset) (size : CycleSize) (data : Word)
  /-- The re-check of the held write that a departure from the queue causes (R30). -/
  | heldWriteRecheck
  /-- The hold timer of a held write expires (R31). -/
  | heldWriteHoldExpired
  /-- The HIF takes the oldest stretched aperture cycle (R34). -/
  | stretchedCycleTaken
  /-- A read on the aperture select (R77). -/
  | apertureRead (offset : Offset) (size : CycleSize)
  /-- The hold timer of a Waiting held read expires (R81). -/
  | holdExpiryWaiting
  /-- The hold timer of an Issued held read expires (R82). -/
  | holdExpiryIssued
  /-- A cycle on the register window that is no word cycle (R87, R159). -/
  | registerWindowBusError (write : Bool) (offset : BitVec 8) (size : CycleSize)
  /-- A word write at an offset of the register window that takes no write (R87). -/
  | registerWrite (offset : BitVec 8) (value : Word)
  /-- A word write to target t's Window register (R1). -/
  | window (t : Target) (value : Word)
  /-- A word write to target t's Timing register (R1). -/
  | timing (t : Target) (value : Word)
  /-- A word write to watch comparator n (R124). -/
  | watchComparator (n : ComparatorNo) (value : Word)
  /-- A word write to Notice Select (R136). -/
  | noticeSelect (value : Word)
  /-- A word write to Event Summary (R136). -/
  | eventSummary (value : Word)
  /-- A word write to Bridge Configuration (R145). -/
  | bridgeConfiguration (value : Word)
  /-- A word write, of any value, to Notice Pop (R139). -/
  | noticePop (value : Word)
  /-- A word write to slot k's Request register (R90). -/
  | request (k : SlotNo) (value : Word)
  /-- A word write, of any value, to slot k's Release register (R98). -/
  | release (k : SlotNo) (value : Word)
  /-- Command code 01H (R4, R5). -/
  | enable (t : Target)
  /-- Command code 02H (R6, R7). -/
  | disable (t : Target)
  /-- Command code 03H (R55). -/
  | fence (notify : Bool)
  /-- Command code 04H (R107). -/
  | resume (t : Target)
  /-- Command code 05H (R109). -/
  | skip (t : Target)
  /-- Command code 06H (R110). -/
  | discard (t : Target)
  /-- Command code 07H (R146). -/
  | quiesce
  /-- Command code 08H, OPEN (R148). -/
  | openBridge
  /-- Command code 09H (R149). -/
  | clear
  /-- Any other command code (R143). -/
  | unknownCommand (code : BitVec 8)
  /-- The issue arbiter grants the device bus (R51). -/
  | issueGrant
  /-- The setup phase is complete (R63, R64). -/
  | setupComplete
  /-- Ready sense off: the strobe count reaches the strobe time; `lines` is what the device data
  lines carry at that boundary (R64, R67). -/
  | strobeTimeReached (lines : LaneWord)
  /-- Ready sense on: the sample at strobe count `count` finds ready high (R65). -/
  | readySampledHigh (count : Nat) (lines : LaneWord)
  /-- The strobe count reaches the access timeout with ready low (R66). -/
  | accessTimeout
  /-- The hold phase is complete (R67, R73). -/
  | accessEnd
  /-- Target t's recovery timer expires (R71). -/
  | recoveryTimerExpires (t : Target)
  /-- The read-turnaround timer expires (R72). -/
  | turnaroundTimerExpires
  /-- A fence whose wait-set has emptied retires (R56). -/
  | fenceRetired
  /-- A sample of attention input t finds an edge that is an attention event (R116). -/
  | attentionEvent (t : Target)
  /-- The held attention record of t, its wait-set emptied, is released (R120). -/
  | attentionRecordReleased (t : Target)
  /-- While Quiescing, the drain condition has come to hold (R147). -/
  | quiesced
  /-- CLEAR takes effect (R151). -/
  | clearTakesEffect
  /-- The RESET input is asserted; `levels` is the first sample of the eight attention inputs after
  the reset, bit t for input t (R152, R115). -/
  | powerOnReset (levels : BitVec 8)
  /-- A sample of attention input t finds an edge that is no attention event (R115, R116). -/
  | attentionInputEdge (t : Target)
  deriving DecidableEq, Repr

end Sys2Proof
end

