-- ==== Sys2Proof/WellFormed.lean ====
section
/-! DEFINITION. Which terms of Instr are commands the host or the part can bring about. -/

namespace Sys2Proof

/-- The offsets of the register window at which software writes a register (section 12). An offset
that is no word offset names no register (assumption 8). -/
def takesWrite (offset : BitVec 8) : Bool :=
  offset.toNat % 4 == 0 &&
    (offset ∈ [0x08#8, 0x0C#8, 0x24#8, 0x28#8, 0x2C#8]
      || (0x30 ≤ offset.toNat && offset.toNat < 0x40)
      || (0x40 ≤ offset.toNat && offset.toNat < 0x80 && offset.toNat % 8 == 0)
      || (0x80 ≤ offset.toNat && offset.toNat % 16 < 8))

/-- The command codes that name a command (R155). -/
def namesCommand (code : BitVec 8) : Bool := 1 ≤ code.toNat && code.toNat ≤ 9

/-- A term is well formed when its operands are ones its row can carry: a register-window bus error
is no word cycle (R87), a discarded register write is at an offset that takes none (R87), an unknown
command's code names no command (R155), and a ready sample comes within the longest access timeout,
4032 DP (R66). -/
def Instr.wellFormed : Instr → Bool
  | .registerWindowBusError _ _ size => size != .word
  | .registerWrite offset _ => !takesWrite offset
  | .unknownCommand code => !namesCommand code
  | .readySampledHigh count _ => count ≤ 4032
  | .apertureWrite _ _ _ | .heldWriteRecheck | .heldWriteHoldExpired | .stretchedCycleTaken
  | .apertureRead _ _ | .holdExpiryWaiting | .holdExpiryIssued | .window _ _ | .timing _ _
  | .watchComparator _ _ | .noticeSelect _ | .eventSummary _ | .bridgeConfiguration _
  | .noticePop _ | .request _ _ | .release _ _ | .enable _ | .disable _ | .fence _ | .resume _
  | .skip _ | .discard _ | .quiesce | .openBridge | .clear | .issueGrant | .setupComplete
  | .strobeTimeReached _ | .accessTimeout | .accessEnd | .recoveryTimerExpires _
  | .turnaroundTimerExpires | .fenceRetired | .attentionEvent _ | .attentionRecordReleased _
  | .quiesced | .clearTakesEffect | .powerOnReset _ | .attentionInputEdge _ => true

end Sys2Proof
end

