-- ==== Sys2Proof/Decode.lean ====
section
/-! DEFINITION. From what the host drives to a command: host cycles, register offsets and command
words. The rows of the opcode table give no bits, so no table word spells a command. -/

namespace Sys2Proof

/-- The size of a host cycle: one byte enable gives a byte, two a halfword, four a word, whichever
lines they are; none or three give no size (R159). -/
def cycleSize (enables : BitVec 4) : CycleSize :=
  match (List.range 4).countP (fun i => enables.getLsbD i) with
  | 1 => .byte
  | 2 => .half
  | 4 => .word
  | _ => .unsized

/-- The command a write of `value` to the Command register carries: the code in bits 7 to 0, the
operand in bits 10 to 8, the other bits discarded (R155). -/
def commandOfWord (value : Word) : Instr :=
  let t : Target := (value.extractLsb' 8 3).toFin
  match (value.extractLsb' 0 8).toNat with
  | 1 => .enable t
  | 2 => .disable t
  | 3 => .fence (value.getLsbD 8)
  | 4 => .resume t
  | 5 => .skip t
  | 6 => .discard t
  | 7 => .quiesce
  | 8 => .openBridge
  | 9 => .clear
  | _ => .unknownCommand (value.extractLsb' 0 8)

/-- The command of a word write at an offset of the register window, by the register map of
section 12; an offset that takes no write discards the value (R87). -/
def commandOfRegisterWrite (offset : BitVec 8) (value : Word) : Instr :=
  if takesWrite offset then
    if offset = 0x08#8 then .bridgeConfiguration value
    else if offset = 0x0C#8 then commandOfWord value
    else if offset = 0x24#8 then .noticePop value
    else if offset = 0x28#8 then .noticeSelect value
    else if offset = 0x2C#8 then .eventSummary value
    else if offset.toNat < 0x40 then .watchComparator (offset.extractLsb' 2 2).toFin value
    else if offset.toNat < 0x80 then
      if offset.getLsbD 3 then .release (offset.extractLsb' 4 2).toFin value
      else .request (offset.extractLsb' 4 2).toFin value
    else if offset.getLsbD 2 then .timing (offset.extractLsb' 4 3).toFin value
    else .window (offset.extractLsb' 4 3).toFin value
  else .registerWrite offset value

/-- The command of a host cycle: which select it is on, HWR, the host address, the byte enables and
the host data lines (R159). A word read of the register window is no command of the table: it is
`readRegister`, and has no effect (R153). -/
def commandOfHostCycle (aperture write : Bool) (address : BitVec 16) (enables : BitVec 4)
    (data : Word) : Option Instr :=
  match aperture, write, cycleSize enables with
  | true, true, size => some (.apertureWrite address size data)
  | true, false, size => some (.apertureRead address size)
  | false, true, .word => some (commandOfRegisterWrite (address.extractLsb' 0 8) data)
  | false, false, .word => none
  | false, write, size => some (.registerWindowBusError write (address.extractLsb' 0 8) size)

/-- The command a word of the opcode table spells: none, since no row of the table gives bits. -/
def decodeTableWord (_nbits _w : Nat) : Option Instr := none

end Sys2Proof
end

