-- ==== Sys2Proof/Config.lean ====
section
/-! DEFINITION. What one implementation fixes, and the free value of the model. -/

namespace Sys2Proof.Config

/-- FREE VALUE. Which of several responses the part takes next where the manual lets them come in
either order (section 1.6.5, R32, R102, R135): the n-th such choice takes the response at this
index, counted modulo how many there are. It has no body, so a proof holds for every order.
Assumption 3. -/
opaque order : Nat → Nat

/-- The write queue holds up to eight entries (R20). -/
def queuePlaces : Nat := 8

/-- The records after which the next offer for queuing becomes the Overflow record (R134, R137). -/
def plainRecords : Nat := 15

/-- The value of the Identification register in this revision of the part (R154). -/
def identification : Word := 0x02460001#32

end Sys2Proof.Config
end

