-- ==== Sys2Proof/Machine/State.lean ====
section
/-! DEFINITION. The state of the PB-46, block by block as section 1.3 of the manual gathers it, the
reasons a step can stop, and the state right after power-on reset. -/

namespace Sys2Proof.Machine

/-! ## Target Table (chapter 1) -/

/-- The nine window sizes (section 1.1). -/
inductive WindowSize where
  | s256 | s512 | s1K | s2K | s4K | s8K | s16K | s32K | s64K
  deriving DecidableEq, Repr

/-- The data width of a target's device. -/
inductive Width where
  | byte | half
  deriving DecidableEq, Repr

/-- A target's ordering class. -/
inductive OrderingClass where
  | relaxed | strict
  deriving DecidableEq, Repr

/-- Which edges of an attention input are attention events (R116). -/
inductive AttentionMode where
  | off | rising | falling | both
  deriving DecidableEq, Repr

/-- The byte lanes a request, an access or a record names (section 1.6.2). -/
inductive Lanes where
  | low | high | both
  deriving DecidableEq, Repr

/-- The thirteen configuration fields of a target (section 1.1). -/
structure TargetConfig where
  base : Offset
  size : WindowSize
  width : Width
  ordering : OrderingClass
  coalesce : Bool
  readySense : Bool
  /-- in DP -/
  setup : BitVec 2
  /-- in DP -/
  strobe : BitVec 4
  /-- in DP -/
  hold : BitVec 2
  /-- in units of 4 DP -/
  recovery : BitVec 8
  /-- in units of 64 DP -/
  timeout : BitVec 6
  attentionMode : AttentionMode
  attentionOrdering : Bool
  deriving DecidableEq, Repr

/-- A fault record: its cause, with the fields R12 gives for that cause. The data stands in lane
positions, zero in a lane the record does not name (R13). -/
inductive FaultRecord where
  | writeTimeout (pn : PN) (offset : Offset) (lanes : Lanes) (data : LaneWord)
  | readTimeout (offset : Offset) (lanes : Lanes)
  | fetchTimeout (offset : Offset) (lanes : Lanes) (slot : SlotNo)
  | watch (pn : Option PN) (offset : Offset) (lanes : Lanes) (data : LaneWord)
      (comparator : ComparatorNo)
  deriving DecidableEq, Repr

/-- The admission state of a target. A Halted target carries its fault record, which is present
exactly while the target is Halted (R11). -/
inductive Admission where
  | disabled
  /-- Open. -/
  | opened
  | halted (fault : FaultRecord)
  deriving DecidableEq, Repr

/-- One of the eight entries of the Target Table. -/
structure TargetEntry where
  staged : TargetConfig
  live : TargetConfig
  admission : Admission
  deriving DecidableEq, Repr

/-! ## Write Queue (chapter 2) -/

/-- The progress of a write entry (R17). -/
inductive Progress where
  | queued | issued | lowDone
  deriving DecidableEq, Repr

/-- A write entry (R17). -/
structure WriteEntry where
  pn : PN
  target : Target
  offset : Offset
  lanes : Lanes
  /-- in lane positions, zero in a lane the entry does not name -/
  data : LaneWord
  progress : Progress
  begun : Bool
  failed : Bool
  deriving DecidableEq, Repr

/-- A fence entry (R18). -/
structure FenceEntry where
  pn : PN
  notify : Bool
  deriving DecidableEq, Repr

/-- An entry of the write queue. -/
inductive QueueEntry where
  | write (e : WriteEntry)
  | fence (f : FenceEntry)
  deriving DecidableEq, Repr

/-- The Write Queue: its entries, oldest first, and its two stored counters (R19, R22). Oldest
Outstanding PN is a view of it (R21). -/
structure WriteQueue where
  entries : List QueueEntry
  nextPn : PN
  lastFenceRetired : PN
  deriving DecidableEq, Repr

/-! ## Order Unit (chapter 3) -/

/-- The name of a present request: a queue entry by its PN, the held read, a fetch by its slot. -/
inductive RequestId where
  | entry (pn : PN)
  | heldRead
  | fetch (slot : SlotNo)
  deriving DecidableEq, Repr

/-- What the OU keeps of a present request: its target (none for a fence) and its wait-set (R43). -/
structure PresentRequest where
  id : RequestId
  target : Option Target
  waitSet : List RequestId
  deriving DecidableEq, Repr

/-! ## Host Interface (chapters 2 and 5) -/

/-- The held-write record (R29). -/
structure HeldWrite where
  target : Target
  offset : Offset
  lanes : Lanes
  data : LaneWord
  deriving DecidableEq, Repr

/-- The phase of a held read (R78). -/
inductive ReadPhase where
  | waiting | issued
  deriving DecidableEq, Repr

/-- Whether the host cycle of a held read is still Open (R78). -/
inductive CycleState where
  | opened | ended
  deriving DecidableEq, Repr

/-- The held-read record (R78). -/
structure HeldRead where
  target : Target
  offset : Offset
  lanes : Lanes
  phase : ReadPhase
  lowHalfDone : Bool
  /-- the kept low byte, or none -/
  keptLow : Option Byte
  cycle : CycleState
  deriving DecidableEq, Repr

/-- The one host aperture cycle the HIF holds (R34). -/
inductive HeldAccess where
  | write (w : HeldWrite)
  | read (r : HeldRead)
  deriving DecidableEq, Repr

/-- An aperture cycle as the host drives it. -/
inductive ApertureCycle where
  | write (offset : Offset) (size : CycleSize) (data : Word)
  | read (offset : Offset) (size : CycleSize)
  deriving DecidableEq, Repr

/-- How a host cycle ends: with ready (HRDY) and the value on the host data lines, zero for a write,
or with bus error (HERR). -/
inductive Ending where
  | ready (data : Word)
  | busError
  deriving DecidableEq, Repr

/-- The ending of one host cycle. -/
inductive HostReply where
  | registerWindow (ending : Ending)
  | apertureWrite (offset : Offset) (ending : Ending)
  | apertureRead (offset : Offset) (ending : Ending)
  deriving DecidableEq, Repr

/-- The Host Interface. -/
structure HostInterface where
  held : Option HeldAccess
  /-- the hold timer: the limit in DP it runs for, or stopped (R29) -/
  holdTimer : Option Nat
  /-- a departure from the queue has still to be answered by a re-check of the held write (R30) -/
  recheckDue : Bool
  /-- the aperture cycles stretched behind the held one, in the order they arrived (R34) -/
  stretched : List ApertureCycle
  /-- the host cycles that ended in the present step: the pins HRDY, HERR and HD -/
  replies : List HostReply
  deriving DecidableEq, Repr

/-! ## Bridge Control (chapter 11) -/

/-- The bridge state. -/
inductive BridgeState where
  | running | quiescing | quiesced | clearing
  deriving DecidableEq, Repr

/-- The result of a command (R144, R155). -/
inductive CommandResult where
  | none | accepted | refusedBusy | refusedState | refusedFull | refusedArgument | refusedClearing
  deriving DecidableEq, Repr

/-- The detail of Command Status (R155). -/
inductive Detail where
  | none
  | number (n : BitVec 16)
  | opened | halted | disabled | running | quiescing | quiesced
  | alignment | strobe | timeout
  | overlap (t : Target)
  | inFlight | heldCycle | writeEntry | fetch | attentionRecord
  | readTimeout | fetchTimeout | watch
  | unknownCommand
  deriving DecidableEq, Repr

/-- Command Status: the last command's code, its result and its detail (R144). -/
structure CommandStatus where
  command : BitVec 8
  result : CommandResult
  detail : Detail
  deriving DecidableEq, Repr

/-- The bridge configuration (R145). -/
structure BridgeConfig where
  /-- in units of 16 DP, 0 taken as one unit -/
  holdLimit : BitVec 8
  /-- in DP -/
  turnaround : BitVec 3
  interruptEnable : Bool
  deriving DecidableEq, Repr

/-- Bridge Control. -/
structure BridgeControl where
  state : BridgeState
  status : CommandStatus
  config : BridgeConfig
  deriving DecidableEq, Repr

/-! ## Fetch Slots (chapter 6) -/

/-- The state of a fetch slot (R89). -/
inductive SlotState where
  | free | waiting | issued | cancelling | done | failed
  deriving DecidableEq, Repr

/-- The result field of a fetch slot (R89). -/
inductive SlotResult where
  | none | done | timeout | halted | decodeMiss | refused
  deriving DecidableEq, Repr

/-- A fetch slot's record (R89), and its refused indication in Fetch Status (R91). -/
structure FetchSlot where
  state : SlotState
  offset : Offset
  lanes : Lanes
  notify : Bool
  /-- zero where the record sets none (R90, R91) -/
  target : Target
  lowHalfDone : Bool
  data : LaneWord
  result : SlotResult
  refused : Bool
  deriving DecidableEq, Repr

/-! ## Device Bus Engine (chapter 4) -/

/-- Which part of its request an access performs (R68). -/
inductive Half where
  | whole | low | high
  deriving DecidableEq, Repr

/-- The phase of the access in flight (section 4.3). -/
inductive BusPhase where
  | setup | strobe | hold
  deriving DecidableEq, Repr

/-- The result of an access, decided when its strobe is removed (R64 to R66). -/
inductive AccessResult where
  | done | timeout
  deriving DecidableEq, Repr

/-- The access record (R60). Its kind is read off its request. -/
structure Access where
  request : RequestId
  target : Target
  address : Offset
  lanes : Lanes
  half : Half
  /-- for a Write the bytes driven; for a Read the bytes taken, zero before; in lane positions -/
  data : LaneWord
  phase : BusPhase
  /-- DP since the strobe was asserted -/
  strobeCount : Nat
  setup : BitVec 2
  strobe : BitVec 4
  hold : BitVec 2
  readySense : Bool
  timeout : BitVec 6
  /-- none until the strobe is removed -/
  result : Option AccessResult
  deriving DecidableEq, Repr

/-- The Device Bus Engine. A timer is stopped, or running for the DP it was started with. -/
structure DeviceBus where
  access : Option Access
  recovery : Vector (Option Nat) 8
  turnaround : Option Nat
  /-- what the address lines keep while the bus is free (R62) -/
  addressLines : Offset
  deriving DecidableEq, Repr

/-! ## Attention Unit (chapter 8) -/

/-- A held attention record (section 8.3); its target is the input's own. -/
structure AttentionRecord where
  /-- 1 to 15 -/
  count : Nat
  writesDropped : Bool
  waitSet : List PN
  deriving DecidableEq, Repr

/-- What the AU keeps for one target: the level found at the last sample, and at most one record. -/
structure AttentionInput where
  /-- the kept level is High -/
  high : Bool
  record : Option AttentionRecord
  deriving DecidableEq, Repr

/-! ## Watch Unit (chapter 9) -/

/-- The width of a watched range (R123). -/
inductive WatchSize where
  | one | two | four
  deriving DecidableEq, Repr

/-- Which accesses a comparator counts (R123). -/
inductive WatchKind where
  | any | write | read
  deriving DecidableEq, Repr

/-- What firing does beside its notice (R123). -/
inductive WatchAction where
  | notice | halt
  deriving DecidableEq, Repr

/-- A watch comparator (R123). -/
structure Comparator where
  offset : Offset
  size : WatchSize
  kind : WatchKind
  count : BitVec 4
  remaining : BitVec 4
  action : WatchAction
  /-- the repeat field is on -/
  repeats : Bool
  armed : Bool
  deriving DecidableEq, Repr

/-! ## Notice Queue (chapter 10) -/

/-- The cause field of a notice (R133). -/
inductive NoticeCause where
  | timeout | halted | holdExpired | quiescing | decodeMiss | noWindow | width
  deriving DecidableEq, Repr

/-- The access kind field of a notice (R133). -/
inductive AccessClass where
  | write | read | fetch
  deriving DecidableEq, Repr

/-- A notice a block offers: one constructor for each of the eleven offered kinds, with the fields
present in that kind (R133). -/
inductive Notice where
  | writeFault (t : Target) (pn : PN) (offset : Offset) (lanes : Lanes) (data : LaneWord)
      (cause : NoticeCause)
  | readFault (t : Target) (offset : Offset) (lanes : Lanes) (cause : NoticeCause)
  | lateRead (t : Target) (offset : Offset) (lanes : Lanes) (data : LaneWord)
  | fetchDone (slot : SlotNo) (t : Target) (offset : Offset) (data : LaneWord)
  /-- the target is absent for cause Decode Miss -/
  | fetchFailed (slot : SlotNo) (t : Option Target) (cause : NoticeCause)
  | fenceRetired (pn : PN)
  | attention (t : Target) (count : Nat) (writesDropped : Bool)
  /-- the PN is present for access kind Write -/
  | watchHit (comparator : ComparatorNo) (t : Target) (offset : Offset) (lanes : Lanes)
      (data : LaneWord) (accessKind : AccessClass) (pn : Option PN) (halted : Bool)
  | decodeMiss (offset : Offset) (cause : NoticeCause) (accessKind : AccessClass)
  | refused (t : Target) (offset : Offset) (cause : NoticeCause) (accessKind : AccessClass)
  | quiesced
  deriving DecidableEq, Repr

/-- What a notice record reports: a notice, or the number of notices lost. -/
inductive RecordBody where
  | notice (n : Notice)
  | overflow (count : BitVec 8)
  deriving DecidableEq, Repr

/-- A notice record (R133). -/
structure NoticeRecord where
  sequence : BitVec 8
  body : RecordBody
  deriving DecidableEq, Repr

/-- The Notice Queue: its records, oldest first, and its registers. Notice Select and Event Summary
are held as the words software reads, bit k for kind code k (R158). -/
structure NoticeQueue where
  records : List NoticeRecord
  sequence : BitVec 8
  select : Word
  summary : Word
  deriving DecidableEq, Repr

/-! ## The whole part -/

/-- What kind of arrival let the issue arbiter decide, where it was not the arrival of the request
itself: the end of an access; or a timer's expiry, a departure, a target becoming Open, or the bridge
leaving Clearing (R53). -/
inductive Freeing where
  | accessEnd | other
  deriving DecidableEq, Repr

/-- The state of the PB-46. -/
structure State where
  /-- the commands that are waiting, first in, first out -/
  pending : List Instr
  targets : Vector TargetEntry 8
  wq : WriteQueue
  /-- the present set in the order of arrival (R42) -/
  ou : List PresentRequest
  hif : HostInterface
  bc : BridgeControl
  fs : Vector FetchSlot 4
  dbe : DeviceBus
  au : Vector AttentionInput 8
  wu : Vector Comparator 4
  nq : NoticeQueue
  /-- the model's own: whether the last arrival was one after which the issue arbiter decides among
  the requests that were present before it (R53, assumption 6) -/
  freed : Option Freeing
  /-- the model's own: how many free choices of order have been made (Config.order) -/
  choices : Nat
  deriving DecidableEq, Repr

/-- A step of the PB-46 never stops with a fault: the manual gives every command an effect, a refusal
by the part being an effect too (a bus error, a Command Status). No constructor; safe. -/
inductive Fault where
  deriving DecidableEq, Repr

/-- Why the model gives a command no meaning. -/
inductive Refusal where
  /-- Raised by exec's arm for a command that has no meaning yet; no arm raises it now. Safe. -/
  | notModelled (mnemonic : String)
  deriving DecidableEq, Repr

/-! ## Power-on reset -/

/-- The power-on column of the table of section 1.1 (R14). -/
def TargetConfig.powerOn : TargetConfig where
  base := 0
  size := .s256
  width := .byte
  ordering := .relaxed
  coalesce := false
  readySense := false
  setup := 1
  strobe := 4
  hold := 1
  recovery := 0
  timeout := 16
  attentionMode := .off
  attentionOrdering := false

/-- A target entry at power-on reset (R14). -/
def TargetEntry.powerOn : TargetEntry := ⟨.powerOn, .powerOn, .disabled⟩

/-- A slot at power-on reset (R101), which is also what Free shows (R97). -/
def FetchSlot.powerOn : FetchSlot where
  state := .free
  offset := 0
  lanes := .low
  notify := false
  target := 0
  lowHalfDone := false
  data := 0
  result := .none
  refused := false

/-- A comparator at power-on reset (R132). -/
def Comparator.powerOn : Comparator where
  offset := 0
  size := .one
  kind := .any
  count := 1
  remaining := 0
  action := .notice
  repeats := false
  armed := false

/-- The part right after power-on reset (R152). The kept level of each attention input is that of
the first sample after the reset (R115); here it is Low (DESIGN CHOICE, assumption 1). -/
def State.reset : State where
  pending := []
  targets := Vector.replicate 8 .powerOn
  wq := { entries := [], nextPn := 1, lastFenceRetired := 0 }
  ou := []
  hif := { held := none, holdTimer := none, recheckDue := false, stretched := [], replies := [] }
  bc := {
    state := .running
    status := { command := 0, result := .none, detail := .none }
    config := { holdLimit := 16, turnaround := 1, interruptEnable := false } }
  fs := Vector.replicate 4 .powerOn
  dbe := { access := none, recovery := Vector.replicate 8 none, turnaround := none,
           addressLines := 0 }
  au := Vector.replicate 8 { high := false, record := none }
  wu := Vector.replicate 4 .powerOn
  nq := { records := [], sequence := 0, select := 0, summary := 0 }
  freed := none
  choices := 0

end Sys2Proof.Machine
end

