-- ==== Sys2Proof/Machine/Operands.lean ====
section
/-! DEFINITION. The fields of the words software writes: how a written value becomes a target's
configuration, a comparator, a bridge configuration or a fetch request; and the lanes of host cycles
and accesses. -/

namespace Sys2Proof.Machine

/-! ## Sizes and lanes -/

/-- The number of offsets in a window of this size (section 1.1). -/
def WindowSize.bytes : WindowSize → Nat
  | .s256 => 256 | .s512 => 512 | .s1K => 1024 | .s2K => 2048 | .s4K => 4096
  | .s8K => 8192 | .s16K => 16384 | .s32K => 32768 | .s64K => 65536

/-- A size code; one that names none of the nine sizes is stored as 64K (R1). -/
def WindowSize.ofCode (code : BitVec 4) : WindowSize :=
  match code.toNat with
  | 0 => .s256 | 1 => .s512 | 2 => .s1K | 3 => .s2K | 4 => .s4K
  | 5 => .s8K | 6 => .s16K | 7 => .s32K | _ => .s64K

/-- The number of bytes of a watched range (R123). -/
def WatchSize.bytes : WatchSize → Nat
  | .one => 1 | .two => 2 | .four => 4

/-- Whether the lanes take in lane Low. -/
def Lanes.hasLow : Lanes → Bool
  | .high => false
  | .low | .both => true

/-- Whether the lanes take in lane High. -/
def Lanes.hasHigh : Lanes → Bool
  | .low => false
  | .high | .both => true

/-- The union of two sets of lanes (R27). -/
def Lanes.union (a b : Lanes) : Lanes := if a = b then a else .both

/-- The bytes of `data` in the named lanes, zero in the others (R17, R133). -/
def Lanes.keep (lanes : Lanes) (data : LaneWord) : LaneWord :=
  match lanes with
  | .low => data &&& 0x00FF#16
  | .high => data &&& 0xFF00#16
  | .both => data

/-- The byte in lane Low. -/
def lowByte (data : LaneWord) : Byte := data.extractLsb' 0 8

/-- The byte in lane High. -/
def highByte (data : LaneWord) : Byte := data.extractLsb' 8 8

/-- Two bytes in their lanes. -/
def laneWord (high low : Byte) : LaneWord := high ++ low

/-- The lanes of an aperture access: a byte takes the lane of its offset, a halfword at an even
offset both; a halfword at an odd offset, a word, and a cycle with no size have none (R8, R9). -/
def lanesOfCycle (offset : Offset) (size : CycleSize) : Option Lanes :=
  match size, offset.getLsbD 0 with
  | .byte, false => some .low
  | .byte, true => some .high
  | .half, false => some .both
  | .half, true | .word, _ | .unsized, _ => none

/-- The bytes an aperture write drives in the lanes it names: lane Low on host data lines 0 to 7,
lane High on lines 8 to 15, whatever bit 1 of the offset (R17, R159). -/
def hostBytes (lanes : Lanes) (data : Word) : LaneWord := lanes.keep (data.extractLsb' 0 16)

/-- The offset with its lowest bit cleared. -/
def halfwordOf (offset : Offset) : Offset := offset &&& 0xFFFE#16

/-! ## The Window and Timing registers (R1, section 12.4) -/

/-- A write of `v` to a Window register replaces these eight staged fields. -/
def TargetConfig.writeWindow (c : TargetConfig) (v : Word) : TargetConfig :=
  { c with
    base := v.extractLsb' 0 16
    size := .ofCode (v.extractLsb' 16 4)
    width := if v.getLsbD 20 then .half else .byte
    ordering := if v.getLsbD 21 then .strict else .relaxed
    coalesce := v.getLsbD 22
    readySense := v.getLsbD 23
    attentionMode := match (v.extractLsb' 24 2).toNat with
      | 0 => .off | 1 => .rising | 2 => .falling | _ => .both
    attentionOrdering := v.getLsbD 26 }

/-- A write of `v` to a Timing register replaces these five staged fields. -/
def TargetConfig.writeTiming (c : TargetConfig) (v : Word) : TargetConfig :=
  { c with
    setup := v.extractLsb' 0 2
    strobe := v.extractLsb' 4 4
    hold := v.extractLsb' 8 2
    recovery := v.extractLsb' 16 8
    timeout := v.extractLsb' 24 6 }

/-- The recovery interval in DP (R2). -/
def TargetConfig.recoveryDP (c : TargetConfig) : Nat := c.recovery.toNat * 4

/-- An access timeout in DP: the field times 64 DP (R2, R66). -/
def timeoutDP (timeout : BitVec 6) : Nat := timeout.toNat * 64

/-! ## Comparators, bridge configuration, fetch requests -/

/-- A write of `v` to a comparator's word: all of its fields, armed with remaining equal to the
count, or disarmed by a count of 0 (R124). -/
def comparatorOfWord (v : Word) : Comparator :=
  let count : BitVec 4 := v.extractLsb' 20 4
  { offset := v.extractLsb' 0 16
    size := match (v.extractLsb' 16 2).toNat with
      | 0 => .one | 1 => .two | _ => .four
    kind := match (v.extractLsb' 18 2).toNat with
      | 1 => .write | 2 => .read | _ => .any
    count := count
    remaining := count
    action := if v.getLsbD 24 then .halt else .notice
    repeats := v.getLsbD 25
    armed := count != 0 }

/-- A write of `v` to Bridge Configuration (R145). -/
def bridgeConfigOfWord (v : Word) : BridgeConfig :=
  { holdLimit := v.extractLsb' 0 8
    turnaround := v.extractLsb' 8 3
    interruptEnable := v.getLsbD 16 }

/-- The hold limit in DP: units of 16 DP, 0 taken as one unit (R29). -/
def BridgeConfig.holdDP (c : BridgeConfig) : Nat :=
  if c.holdLimit = 0 then 16 else c.holdLimit.toNat * 16

/-- The lanes of a fetch Request: codes 0 and 1 both give Low (R156). -/
def requestLanes (v : Word) : Lanes :=
  match (v.extractLsb' 16 2).toNat with
  | 2 => .high
  | 3 => .both
  | _ => .low

/-- The offset of a fetch Request as the FS fixes it: even for Low, odd for High, as written for
Both (R90). -/
def requestOffset (v : Word) : Offset :=
  let offset : Offset := v.extractLsb' 0 16
  match requestLanes v with
  | .low => halfwordOf offset
  | .high => offset ||| 1#16
  | .both => offset

/-- The notify bit of a fetch Request (R156). -/
def requestNotify (v : Word) : Bool := v.getLsbD 20

/-! ## Halves of a request (R61, R67, R68) -/

/-- The half a grant performs, from the request's lanes, the target's live width and whether the
request has its low half done (R68). -/
def halfFor (lanes : Lanes) (width : Width) (lowHalfDone : Bool) : Half :=
  match lanes, width, lowHalfDone with
  | .both, .byte, false => .low
  | .both, .byte, true => .high
  | _, _, _ => .whole

/-- The lanes of the access that performs a half (R68). -/
def accessLanes (lanes : Lanes) : Half → Lanes
  | .whole => lanes
  | .low => .low
  | .high => .high

/-- The device address of the access that performs a half (R68). -/
def accessAddress (offset : Offset) : Half → Offset
  | .whole | .low => offset
  | .high => offset + 1

/-- The bytes a Read takes from the device data lines, in lane positions: a byte-wide device gives a
High byte on lines 0 to 7 (R61). -/
def takenBytes (width : Width) (lanes : Lanes) (lines : LaneWord) : LaneWord :=
  match width, lanes with
  | .byte, .high => laneWord (lowByte lines) 0
  | _, _ => lanes.keep lines

end Sys2Proof.Machine
end

