-- ==== Sys2Proof/Machine/Flags.lean ====
section
/-! DEFINITION. The flags of the part: the Notice Queue with its Event Summary and its interrupt
line (chapter 10). -/

namespace Sys2Proof.Machine

/-- The kind code of a notice (section 12.4). -/
def Notice.code : Notice → Nat
  | .writeFault .. => 1
  | .readFault .. => 2
  | .lateRead .. => 3
  | .fetchDone .. => 4
  | .fetchFailed .. => 5
  | .fenceRetired .. => 6
  | .attention .. => 7
  | .watchHit .. => 8
  | .decodeMiss .. => 9
  | .refused .. => 10
  | .quiesced => 11

/-- The kind code of Overflow. -/
def overflowCode : Nat := 12

/-- The kind code of a record. -/
def RecordBody.code : RecordBody → Nat
  | .notice n => n.code
  | .overflow _ => overflowCode

/-- The word with one bit, bit `k`, set. -/
def oneBit (k : Nat) : Word := 1#32 <<< k

/-- The bits of Notice Select that name a kind, 1 to 11 (R158). -/
def selectMask : Word := 0x00000FFE#32

/-- The bits of Event Summary that name a kind, 1 to 12 (R158). -/
def summaryMask : Word := 0x00001FFE#32

namespace NoticeQueue

/-- Kind `k` is set to Summary-only. -/
def summaryOnly (q : NoticeQueue) (k : Nat) : Bool := q.select.getLsbD k

/-- Sets the Event Summary indication of kind `k`. -/
def indicate (q : NoticeQueue) (k : Nat) : NoticeQueue := { q with summary := q.summary ||| oneBit k }

/-- The count of the Overflow record, if the queue is overflowed: an Overflow record is always the
youngest record present (R137). -/
def overflowCount? (q : NoticeQueue) : Option (BitVec 8) :=
  match q.records.getLast? with
  | some ⟨_, .overflow count⟩ => some count
  | _ => none

/-- Enters a record at the tail with the current sequence number, and advances the counter, from 255
to 0 (R134). -/
def enter (q : NoticeQueue) (body : RecordBody) : NoticeQueue :=
  { q with records := q.records ++ [⟨q.sequence, body⟩], sequence := q.sequence + 1 }

/-- The Overflow count after one more lost notice: it stays at 255 (R137). -/
def countUp (count : BitVec 8) : BitVec 8 := if count = 255 then 255 else count + 1

/-- Counts one more lost notice into the Overflow record (R137). -/
def countLost (q : NoticeQueue) : NoticeQueue :=
  match q.records.getLast? with
  | some ⟨sequence, .overflow count⟩ =>
    { q with records := q.records.dropLast ++ [⟨sequence, .overflow (countUp count)⟩] }
  | _ => q

/-- What the NQ does with a notice offered for queuing (R134, R137). -/
def queueUp (q : NoticeQueue) (n : Notice) : NoticeQueue :=
  if q.overflowCount?.isSome then q.countLost
  else if q.records.length < Config.plainRecords then q.enter (.notice n)
  else (q.enter (.overflow 1)).indicate overflowCode

/-- An offer: the kind's indication is set, and unless the kind is Summary-only the notice is
offered for queuing (R134). -/
def offer (q : NoticeQueue) (n : Notice) : NoticeQueue :=
  let q := q.indicate n.code
  if q.summaryOnly n.code then q else q.queueUp n

/-- A write to Notice Pop removes the head record; on an empty queue it is ignored (R139). -/
def pop (q : NoticeQueue) : NoticeQueue := { q with records := q.records.tail }

/-- A write to Notice Select replaces all eleven settings (R136, R158). -/
def writeSelect (q : NoticeQueue) (v : Word) : NoticeQueue := { q with select := v &&& selectMask }

/-- A write to Event Summary clears the indications where the value has a one (R136, R158). -/
def clearSummary (q : NoticeQueue) (v : Word) : NoticeQueue := { q with summary := q.summary &&& ~~~v }

/-- The NQ's part of CLEAR taking effect: no record, no indication, sequence 0; Notice Select kept
(R142). -/
def cleared (q : NoticeQueue) : NoticeQueue := { q with records := [], sequence := 0, summary := 0 }

end NoticeQueue

/-- A block offers a notice to the Notice Queue. -/
def offer (n : Notice) (s : State) : State := { s with nq := s.nq.offer n }

/-- The host interrupt line, HINT: asserted while the queue holds a record and interrupt enable is
on (R140). -/
def State.interruptLine (s : State) : Bool :=
  !s.nq.records.isEmpty && s.bc.config.interruptEnable

end Sys2Proof.Machine
end

