-- ==== Sys2Proof/Machine/Ops.lean ====
section
/-! DEFINITION. The shared operations of the blocks: decode and windows, the present set and its
wait-sets, the write queue, the held cycle, the fetch slots, and what a departure does. -/

namespace Sys2Proof.Machine

/-! ## Target Table -/

/-- The eight targets, lowest number first. -/
def allTargets : List Target := [0, 1, 2, 3, 4, 5, 6, 7]

/-- The four fetch slots. -/
def allSlots : List SlotNo := [0, 1, 2, 3]

/-- The live configuration of a target: what every block acts on (R3). -/
def State.live (s : State) (t : Target) : TargetConfig := s.targets[t].live

/-- The admission state of a target. -/
def State.admission (s : State) (t : Target) : Admission := s.targets[t].admission

/-- A target is enabled when it is Open or Halted (section 1.2). -/
def Admission.enabled : Admission → Bool
  | .disabled => false
  | .opened | .halted _ => true

/-- A Halted target. -/
def Admission.isHalted : Admission → Bool
  | .halted _ => true
  | .disabled | .opened => false

/-- The arrival being taken is one after which the issue arbiter decides; the end of an access stays
the kind of an arrival that has more to it (R53). -/
def markFreed (s : State) : State := { s with freed := s.freed.or (some .other) }

/-- Replaces a target's entry. -/
def State.setTarget (s : State) (t : Target) (e : TargetEntry) : State :=
  { s with targets := s.targets.set t e }

/-- Changes a target's admission state; its configuration is kept. -/
def State.setAdmission (s : State) (t : Target) (a : Admission) : State :=
  s.setTarget t { s.targets[t] with admission := a }

/-- A target becomes Open (R53). -/
def State.openTarget (s : State) (t : Target) : State := markFreed (s.setAdmission t .opened)

/-- The window from `base` contains the offset: base to base + size - 1 (R8). -/
def windowHas (base : Offset) (size : WindowSize) (offset : Offset) : Bool :=
  base.toNat ≤ offset.toNat && offset.toNat < base.toNat + size.bytes

/-- Two windows have an offset in common (R4). -/
def windowsMeet (a b : TargetConfig) : Bool :=
  a.base.toNat < b.base.toNat + b.size.bytes && b.base.toNat < a.base.toNat + a.size.bytes

/-- What decode answers (R8, R9). -/
inductive Decoded where
  | miss (cause : NoticeCause)
  | hit (t : Target) (lanes : Lanes)
  deriving DecidableEq, Repr

/-- Decode of an offset whose lanes are known: the enabled target whose live window contains it, or
Decode Miss with cause No Window (R8). -/
def State.decodeLanes (s : State) (offset : Offset) (lanes : Lanes) : Decoded :=
  match allTargets.find? fun t =>
      (s.admission t).enabled && windowHas (s.live t).base (s.live t).size offset with
  | some t => .hit t lanes
  | none => .miss .noWindow

/-- Decode of an aperture cycle: first the size, then the windows (R8). -/
def State.decode (s : State) (offset : Offset) (size : CycleSize) : Decoded :=
  match lanesOfCycle offset size with
  | none => .miss .width
  | some lanes => s.decodeLanes offset lanes

/-! ## The present set and its wait-sets (chapter 3) -/

/-- Whether a request of target `x` (none for a fence) takes a present one of target `y` into its
wait-set: a fence on either side, the same target, or a Strict target on either side (R43). -/
def State.waitsFor (s : State) (x y : Option Target) : Bool :=
  match x, y with
  | some tx, some ty =>
    tx == ty || (s.live ty).ordering == .strict || (s.live tx).ordering == .strict
  | _, _ => true

/-- The wait-set of a request that arrives now (R43). -/
def State.waitSetOf (s : State) (target : Option Target) : List RequestId :=
  (s.ou.filter fun y => s.waitsFor target y.target).map (·.id)

/-- A request arrives at the OU: the youngest, with its wait-set (R40, R42, R43). -/
def arriveRequest (id : RequestId) (target : Option Target) (s : State) : State :=
  { s with ou := s.ou ++ [⟨id, target, s.waitSetOf target⟩] }

/-- Takes requests out of the present set and strikes them out of every wait-set (R41, R44). -/
def strike (ids : List RequestId) (ou : List PresentRequest) : List PresentRequest :=
  (ou.filter fun r => !ids.contains r.id).map fun r =>
    { r with waitSet := r.waitSet.filter fun m => !ids.contains m }

/-- Requests depart together from the present set (R41, R53). -/
def depart (ids : List RequestId) (s : State) : State :=
  markFreed { s with ou := strike ids s.ou }

/-- What the OU keeps of a present request. -/
def State.requestOf (s : State) (id : RequestId) : Option PresentRequest := s.ou.find? (·.id == id)

/-! ## Write Queue (chapter 2) -/

/-- The posting number of an entry. -/
def QueueEntry.pn : QueueEntry → PN
  | .write e => e.pn
  | .fence f => f.pn

/-- The entry is a write entry of target `t`. -/
def QueueEntry.isWriteOf (t : Target) : QueueEntry → Bool
  | .write e => e.target == t
  | .fence _ => false

/-- The entry is a fence. -/
def QueueEntry.isFence : QueueEntry → Bool
  | .write _ => false
  | .fence _ => true

/-- The posting number after `pn`: after 65535 comes 1 (R19). -/
def pnAfter (pn : PN) : PN := if pn = 0xFFFF#16 then 1 else pn + 1

namespace WriteQueue

/-- The queue has room: fewer than eight entries, and none holds Next PN (R20). -/
def room (q : WriteQueue) : Bool :=
  q.entries.length < Config.queuePlaces && q.entries.all fun e => e.pn != q.nextPn

/-- Oldest Outstanding PN (R21). -/
def oldestOutstanding (q : WriteQueue) : PN := (q.entries.head?.map (·.pn)).getD q.nextPn

/-- Puts a new entry at the tail and advances Next PN (R19). -/
def push (q : WriteQueue) (e : QueueEntry) : WriteQueue :=
  { q with entries := q.entries ++ [e], nextPn := pnAfter q.nextPn }

/-- Takes the entries with these posting numbers out; the others keep their order (R36). -/
def remove (q : WriteQueue) (pns : List PN) : WriteQueue :=
  { q with entries := q.entries.filter fun e => !pns.contains e.pn }

/-- The write entry with this posting number. -/
def find (q : WriteQueue) (pn : PN) : Option WriteEntry :=
  q.entries.findSome? fun
    | .write e => if e.pn = pn then some e else none
    | .fence _ => none

/-- Changes the write entry with this posting number. -/
def update (q : WriteQueue) (pn : PN) (f : WriteEntry → WriteEntry) : WriteQueue :=
  { q with entries := q.entries.map fun
      | .write e => if e.pn = pn then .write (f e) else .write e
      | .fence f => .fence f }

/-- The posting numbers of target t's write entries, oldest first. -/
def pnsOf (q : WriteQueue) (t : Target) : List PN :=
  (q.entries.filter (·.isWriteOf t)).map (·.pn)

end WriteQueue

/-- Changes the write entry with this posting number. -/
def updateEntry (pn : PN) (f : WriteEntry → WriteEntry) (s : State) : State :=
  { s with wq := s.wq.update pn f }

/-- Enters a write as a new entry at the tail, which arrives at the OU (R17, R24, R40). -/
def enterWrite (w : HeldWrite) (s : State) : State :=
  arriveRequest (.entry s.wq.nextPn) (some w.target)
    { s with wq := s.wq.push (.write {
        pn := s.wq.nextPn, target := w.target, offset := w.offset, lanes := w.lanes,
        data := w.data, progress := .queued, begun := false, failed := false }) }

/-- The entries the AU keeps records for leave a record's wait-set; one that left without retiring
sets writes dropped (R120). -/
def AttentionInput.strike (pns : List PN) (dropped : Bool) (a : AttentionInput) : AttentionInput :=
  { a with record := a.record.map fun r =>
      if r.waitSet.any pns.contains then
        { r with waitSet := r.waitSet.filter fun m => !pns.contains m
                 writesDropped := r.writesDropped || dropped }
      else r }

/-- A held write has now to be re-checked (R30). -/
def HostInterface.queueDeparture (h : HostInterface) : HostInterface :=
  match h.held with
  | some (.write _) => { h with recheckDue := true }
  | _ => h

/-- Entries leave the write queue together, retiring or removed: they leave the queue, the present
set, every wait-set and every held attention record, and a held write is to be re-checked
(R36, R37, R112). -/
def leaveQueue (pns : List PN) (dropped : Bool) (s : State) : State :=
  depart (pns.map .entry)
    { s with wq := s.wq.remove pns
             au := s.au.map (·.strike pns dropped)
             hif := if pns.isEmpty then s.hif else s.hif.queueDeparture }

/-! ## Host Interface -/

/-- A host cycle ends. -/
def reply (r : HostReply) (s : State) : State :=
  { s with hif := { s.hif with replies := s.hif.replies ++ [r] } }

/-- The HIF holds an aperture cycle: the hold timer starts with the hold limit of this moment
(R29, R78). -/
def hold (a : HeldAccess) (s : State) : State :=
  { s with hif := { s.hif with held := some a, holdTimer := some s.bc.config.holdDP
                               recheckDue := false } }

/-- A hold ends: the timer stops and the record is discarded (R29, R80). -/
def endHold (s : State) : State :=
  { s with hif := { s.hif with held := none, holdTimer := none, recheckDue := false } }

/-- Changes the held read's record. -/
def setHeldRead (r : HeldRead) (s : State) : State :=
  { s with hif := { s.hif with held := some (.read r) } }

/-- The held write, if the HIF holds one. -/
def State.heldWrite? (s : State) : Option HeldWrite :=
  match s.hif.held with
  | some (.write w) => some w
  | _ => none

/-- The held read, if the HIF holds one. -/
def State.heldRead? (s : State) : Option HeldRead :=
  match s.hif.held with
  | some (.read r) => some r
  | _ => none

/-- The HIF is occupied while it holds a cycle or keeps a held-read record (R34, R82). -/
def State.hifOccupied (s : State) : Bool := s.hif.held.isSome

/-- The held read leaves: its record is discarded and it departs (R41). -/
def dropHeldRead (s : State) : State := depart [.heldRead] (endHold s)

/-! ## Fetch Slots -/

/-- Replaces a slot's record. -/
def setSlot (k : SlotNo) (r : FetchSlot) (s : State) : State := { s with fs := s.fs.set k r }

/-- A slot in Waiting, Issued or Cancelling holds a present request (R89). -/
def SlotState.holdsRequest : SlotState → Bool
  | .waiting | .issued | .cancelling => true
  | .free | .done | .failed => false

/-- A slot gone to Free: every field but its refused indication as Free shows it (R98, R101). -/
def FetchSlot.freed (r : FetchSlot) : FetchSlot := { FetchSlot.powerOn with refused := r.refused }

/-! ## Device bus -/

/-- An access to target `t` is in flight. -/
def State.inFlight (s : State) (t : Target) : Bool := s.dbe.access.any (·.target == t)

/-- Whether an access is a Write (of a write entry) or a Read (R60). -/
def Access.isWrite (a : Access) : Bool :=
  match a.request with
  | .entry _ => true
  | .heldRead | .fetch _ => false

/-! ## Bridge -/

/-- The drain condition of QUIESCE (R146). -/
def State.drained (s : State) : Bool :=
  s.wq.entries.isEmpty && s.fs.toList.all (!·.state.holdsRequest) && s.heldRead?.isNone
    && s.dbe.access.isNone

/-- Changes the bridge state. -/
def setBridge (b : BridgeState) (s : State) : State := { s with bc := { s.bc with state := b } }

end Sys2Proof.Machine
end

