-- ==== Sys2Proof/Machine/Arbiter.lean ====
section
/-! DEFINITION. The issue arbiter: eligibility, the choice of a request, and what a grant does
(chapter 3). -/

namespace Sys2Proof.Machine

/-! ## Eligibility and the grant -/

/-- The request's owner shows it ready to be granted: a write entry Queued or Low Done, the held
read or a slot Waiting (the fourth condition of R49). A fence is never ready. -/
def State.ready (s : State) (id : RequestId) : Bool :=
  match id with
  | .entry pn => (s.wq.find pn).any fun e => e.progress != .issued
  | .heldRead => s.heldRead?.any fun r => r.phase == .waiting
  | .fetch k => s.fs[k].state == .waiting

/-- A request is eligible: its wait-set is empty, its target Open, its target's recovery timer
stopped, and it is not Issued (R49). -/
def State.eligible (s : State) (r : PresentRequest) : Bool :=
  r.waitSet.isEmpty && s.ready r.id && (match r.target with
    | some t => s.admission t == .opened && s.dbe.recovery[t].isNone
    | none => false)

/-- The rank of a request at the issue arbiter: the held read, then fetches, then write entries
(R51). -/
def RequestId.rank : RequestId → Nat
  | .heldRead => 1
  | .fetch _ => 2
  | .entry _ => 3

/-- Of the eligible requests, the one granted: the highest rank, and in a rank the one that arrived
first (R51). -/
def State.winner? (s : State) : Option PresentRequest :=
  let eligible := s.ou.filter s.eligible
  (eligible.find? (·.id.rank == 1)).or
    ((eligible.find? (·.id.rank == 2)).or (eligible.find? (·.id.rank == 3)))

/-- The bus is free, the turnaround timer stopped and the bridge not Clearing (R51). -/
def State.mayGrant (s : State) : Bool :=
  s.dbe.access.isNone && s.dbe.turnaround.isNone && s.bc.state != .clearing

/-- What a grant takes from a request's owner: offset, lanes, whether its low half is done, and for
a write its data (R52, R60). -/
def State.requestFields? (s : State) (id : RequestId) : Option (Offset × Lanes × Bool × LaneWord) :=
  match id with
  | .entry pn => (s.wq.find pn).map fun e => (e.offset, e.lanes, e.progress == .lowDone, e.data)
  | .heldRead => s.heldRead?.map fun r => (r.offset, r.lanes, r.lowHalfDone, 0)
  | .fetch k => some (s.fs[k].offset, s.fs[k].lanes, s.fs[k].lowHalfDone, 0)

/-- The access record of a grant (R60, R68). A setup time of 0 DP makes the setup phase empty
(R63). -/
def accessFor (id : RequestId) (t : Target) (c : TargetConfig) (offset : Offset) (lanes : Lanes)
    (lowHalfDone : Bool) (data : LaneWord) : Access :=
  let half := halfFor lanes c.width lowHalfDone
  { request := id, target := t, address := accessAddress offset half
    lanes := accessLanes lanes half, half := half, data := (accessLanes lanes half).keep data
    phase := if c.setup = 0 then .strobe else .setup
    strobeCount := 0, setup := c.setup, strobe := c.strobe, hold := c.hold
    readySense := c.readySense, timeout := c.timeout, result := none }

/-- The granted request becomes Issued at its owner (R52, R79, R93). -/
def markIssued (id : RequestId) (s : State) : State :=
  match id with
  | .entry pn => updateEntry pn (fun e => { e with progress := .issued, begun := true }) s
  | .heldRead =>
    match s.heldRead? with
    | some r => setHeldRead { r with phase := .issued } s
    | none => s
  | .fetch k => setSlot k { s.fs[k] with state := .issued } s

/-- Grants the bus to a request: it becomes Issued and its access begins (R52, R60). -/
def grant (r : PresentRequest) (s : State) : State :=
  match r.target, s.requestFields? r.id with
  | some t, some (offset, lanes, lowHalfDone, data) =>
    let s := markIssued r.id s
    { s with freed := none, dbe := { s.dbe with
        access := some (accessFor r.id t (s.live t) offset lanes lowHalfDone data) } }
  | _, _ => s

/-- The four conditions of the issue arbiter hold (R51). -/
def State.grantDue (s : State) : Bool := s.mayGrant && s.winner?.isSome

/-- A grant is due to the request itself that has just arrived, and is part of its arrival (R53). -/
def State.ownGrantDue (s : State) : Bool := s.grantDue && s.freed.isNone

/-- A grant that another arrival brought about is due, of a request that meets `p`. -/
def State.freedGrantOf (p : PresentRequest → Bool) (s : State) : Bool :=
  s.grantDue && s.freed.isSome && s.winner?.any p

/-- The issue arbiter decides: its choice, if it has one, is granted (R51, R52). -/
def grantChosen (s : State) : State :=
  if s.mayGrant then
    match s.winner? with
    | some r => grant r s
    | none => s
  else s

end Sys2Proof.Machine
end

