-- ==== Sys2Proof/Machine/HostCycles.lean ====
section
/-! DEFINITION. What the HIF does with a host aperture cycle it takes: the arrival checks, posted
writes and coalescing, the held write and the held read (chapters 2 and 5). -/

namespace Sys2Proof.Machine

/-! ## Coalescing (section 2.4) -/

/-- A present fetch has the request in its wait-set (R26). -/
def State.fetchWaitsFor (s : State) (id : RequestId) : Bool :=
  s.ou.any fun r => (match r.id with
    | .fetch _ => true
    | .entry _ | .heldRead => false) && r.waitSet.contains id

/-- A held attention record has the entry in its wait-set (R26). -/
def State.attentionWaitsFor (s : State) (pn : PN) : Bool :=
  s.au.toList.any fun a => a.record.any fun r => r.waitSet.contains pn

/-- The entry an admitted write is merged into: the tail entry, under the conditions of R26. -/
def State.mergeEntry? (s : State) (w : HeldWrite) : Option WriteEntry :=
  match s.wq.entries.getLast? with
  | some (.write e) =>
    if (s.live w.target).coalesce && e.target == w.target && e.progress == .queued && !e.begun
        && !e.failed && halfwordOf e.offset == halfwordOf w.offset
        && !s.fetchWaitsFor (.entry e.pn) && !s.attentionWaitsFor e.pn
    then some e else none
  | _ => none

/-- The entry with a write merged into it (R27). -/
def WriteEntry.merge (e : WriteEntry) (w : HeldWrite) : WriteEntry :=
  { e with
    lanes := e.lanes.union w.lanes
    offset := if e.lanes.union w.lanes = .both then halfwordOf e.offset else e.offset
    data := laneWord (if w.lanes.hasHigh then highByte w.data else highByte e.data)
      (if w.lanes.hasLow then lowByte w.data else lowByte e.data) }

/-! ## Admission of aperture writes (section 2.3) -/

/-- An admitted write is merged, entered or held (R24, R27, R29). -/
def admitWrite (w : HeldWrite) (s : State) : State :=
  match s.mergeEntry? w with
  | some e => reply (.apertureWrite w.offset (.ready 0)) (updateEntry e.pn (·.merge w) s)
  | none =>
    if s.wq.room then reply (.apertureWrite w.offset (.ready 0)) (enterWrite w s)
    else hold (.write w) s

/-- The entry an aperture write of a free HIF would be merged into, were it taken now (R23, R26). -/
def State.mergesInto? (offset : Offset) (size : CycleSize) (data : Word) (s : State) :
    Option WriteEntry :=
  if s.hifOccupied || !s.hif.stretched.isEmpty || s.bc.state != .running then none
  else match s.decode offset size with
    | .miss _ => none
    | .hit t lanes =>
      if (s.admission t).isHalted then none
      else s.mergeEntry? ⟨t, offset, lanes, hostBytes lanes data⟩

/-- An aperture write ends with bus error (R25). -/
def refuseWrite (offset : Offset) (s : State) : State := reply (.apertureWrite offset .busError) s

/-- The HIF takes an aperture write: its four checks, in order, and admission (R23, R24). -/
def takeWrite (offset : Offset) (size : CycleSize) (data : Word) (s : State) : State :=
  if s.bc.state = .clearing then refuseWrite offset s
  else match s.decode offset size with
    | .miss cause => refuseWrite offset (offer (.decodeMiss offset cause .write) s)
    | .hit t lanes =>
      if (s.admission t).isHalted then
        refuseWrite offset (offer (.refused t offset .halted .write) s)
      else if s.bc.state ≠ .running then
        refuseWrite offset (offer (.refused t offset .quiescing .write) s)
      else admitWrite ⟨t, offset, lanes, hostBytes lanes data⟩ s

/-! ## Arrival of an aperture read (section 5.1) -/

/-- A read that passes its checks is held, Waiting, and arrives at the OU (R78). -/
def holdRead (t : Target) (offset : Offset) (lanes : Lanes) (s : State) : State :=
  arriveRequest .heldRead (some t)
    (hold (.read { target := t, offset := offset, lanes := lanes, phase := .waiting,
                   lowHalfDone := false, keptLow := none, cycle := .opened }) s)

/-- An aperture read ends with bus error. -/
def refuseRead (offset : Offset) (s : State) : State := reply (.apertureRead offset .busError) s

/-- The HIF takes an aperture read: its three checks, in order, and the hold (R77, R78). -/
def takeRead (offset : Offset) (size : CycleSize) (s : State) : State :=
  if s.bc.state = .clearing then refuseRead offset s
  else match s.decode offset size with
    | .miss cause => refuseRead offset (offer (.decodeMiss offset cause .read) s)
    | .hit t lanes =>
      if (s.admission t).isHalted then
        refuseRead offset (offer (.readFault t offset lanes .halted) s)
      else holdRead t offset lanes s

/-! ## Any aperture cycle -/

/-- The HIF takes an aperture cycle. -/
def takeCycle (c : ApertureCycle) (s : State) : State :=
  match c with
  | .write offset size data => takeWrite offset size data s
  | .read offset size => takeRead offset size s

end Sys2Proof.Machine
end

