-- ==== Sys2Proof/Machine/Arrival.lean ====
section
/-! DEFINITION. One arrival and what it brings about in several blocks. The end of an access and a
departure reach several blocks, which the part does not order (section 4.6, R32, R102, R135): each
block's responses are kept in its own order, and which block goes next is a free choice
(Config.order). What the state then calls for at once is due, and happens before the next arrival. -/

namespace Sys2Proof.Machine

/-- The blocks that respond to an arrival. -/
inductive Block where
  | wq | hif | fs | tt | wu | au | bc | ou
  deriving DecidableEq, Repr

/-- A response a block has still to make to the arrival being taken. -/
inductive Task where
  /-- the owner of the access's request takes its end (R73) -/
  | takeEnd (a : Access)
  /-- a halt of `t` arrives at the TT with these facts (R10) -/
  | halt (t : Target) (fault : FaultRecord)
  /-- the HIF sees that `t` has become Halted (R10, R32, R84) -/
  | seeHalt (t : Target)
  /-- a notice is offered to the NQ (R134) -/
  | offer (n : Notice)
  deriving DecidableEq, Repr

/-- A response and the block that makes it. -/
structure Job where
  block : Block
  task : Task
  deriving DecidableEq, Repr

/-- What the state calls for at once, as part of the arrival that brought it about. -/
inductive Due where
  /-- a fence whose wait-set is empty retires (R56) -/
  | fence
  /-- a held attention record whose wait-set is empty is released (R120) -/
  | attention (t : Target)
  /-- the held write is re-checked (R30) -/
  | recheck
  /-- the drain condition holds while Quiescing (R147) -/
  | quiesced
  /-- CLEAR takes effect (R151) -/
  | clear
  /-- the HIF takes the stretched cycle that came first (R34) -/
  | stretched
  /-- the issue arbiter grants (R53) -/
  | grant
  deriving DecidableEq, Repr

/-- The block a due event belongs to. -/
def Due.block : Due → Block
  | .fence => .wq
  | .attention _ => .au
  | .recheck | .stretched => .hif
  | .grant => .ou
  | .quiesced | .clear => .bc

/-! ## The responses of the owners to an access end -/

/-- The WQ takes the end of a write entry's access (R35, R103). -/
def wqTakesEnd (a : Access) (pn : PN) (s : State) : State × List Job :=
  match s.wq.find pn, a.result with
  | none, _ | _, none => (s, [])
  | some _, some .done =>
    if a.half = .low then (updateEntry pn (fun e => { e with progress := .lowDone }) s, [])
    else (leaveQueue [pn] false s, [])
  | some e, some .timeout =>
    (updateEntry pn (fun e => { e with progress := if a.half = .high then .lowDone else .queued
                                       failed := true }) s,
     [⟨.wq, .offer (.writeFault e.target pn a.address a.lanes a.data .timeout)⟩])

/-- A Waiting held read whose target is Halted ends with bus error and a Read Fault notice of cause
Halted, and departs (R84). -/
def haltHeldRead (r : HeldRead) (s : State) : State × List Job :=
  (reply (.apertureRead r.offset .busError) (dropHeldRead s),
   [⟨.hif, .offer (.readFault r.target r.offset r.lanes .halted)⟩])

/-- The bytes of a held read at its last access's end: a kept low byte in lane Low, the bytes taken
in theirs (R80). -/
def HeldRead.bytesWith (r : HeldRead) (a : Access) : LaneWord :=
  match a.half with
  | .high => laneWord (highByte a.data) (r.keptLow.getD 0)
  | .whole | .low => a.data

/-- The HIF takes the end of the held read's access (R79, R80, R82, R83, R69). -/
def hifTakesEnd (a : Access) (s : State) : State × List Job :=
  match s.heldRead?, a.result with
  | none, _ | _, none => (s, [])
  | some r, some .timeout =>
    let s := dropHeldRead s
    (if r.cycle = .opened then reply (.apertureRead r.offset .busError) s else s,
     [⟨.hif, .offer (.readFault r.target r.offset r.lanes .timeout)⟩])
  | some r, some .done =>
    match r.cycle, a.half with
    | .opened, .low =>
      let r := { r with phase := .waiting, lowHalfDone := true, keptLow := some (lowByte a.data) }
      if (s.admission r.target).isHalted then haltHeldRead r s else (setHeldRead r s, [])
    | .opened, _ =>
      (reply (.apertureRead r.offset (.ready ((r.bytesWith a).setWidth 32))) (dropHeldRead s), [])
    | .ended, .low =>
      (dropHeldRead s, [⟨.hif, .offer (.lateRead r.target r.offset .low a.data)⟩])
    | .ended, _ =>
      (dropHeldRead s, [⟨.hif, .offer (.lateRead r.target r.offset r.lanes (r.bytesWith a))⟩])

/-- The FS takes the end of a fetch's access (R93, R94, R95, R98). -/
def fsTakesEnd (a : Access) (k : SlotNo) (s : State) : State × List Job :=
  let r := s.fs[k]
  match r.state, a.result with
  | .cancelling, some _ => (depart [.fetch k] (setSlot k r.freed s), [])
  | .issued, some .timeout =>
    (depart [.fetch k] (setSlot k { r with state := .failed, result := .timeout, data := 0
                                           lowHalfDone := false } s),
     if r.notify then [⟨.fs, .offer (.fetchFailed k (some r.target) .timeout)⟩] else [])
  | .issued, some .done =>
    if a.half = .low then
      (setSlot k { r with state := .waiting, lowHalfDone := true, data := a.data } s, [])
    else
      let data := if a.half = .high then laneWord (highByte a.data) (lowByte r.data) else a.data
      (depart [.fetch k] (setSlot k { r with state := .done, result := .done, data := data
                                             lowHalfDone := false } s),
       if r.notify then [⟨.fs, .offer (.fetchDone k r.target r.offset data)⟩] else [])
  | _, _ => (s, [])

/-- The owner of the request takes the end of its access (R73). -/
def takeEnd (a : Access) (s : State) : State × List Job :=
  match a.request with
  | .entry pn => wqTakesEnd a pn s
  | .heldRead => hifTakesEnd a s
  | .fetch k => fsTakesEnd a k s

/-- The block that owns a request (R40). -/
def RequestId.owner : RequestId → Block
  | .entry _ => .wq
  | .heldRead => .hif
  | .fetch _ => .fs

/-! ## Halts -/

/-- A halt arrives at the TT: an Open target becomes Halted with this fault record, which the HIF
then sees; a target that is not Open is left as it is (R10, R16). -/
def takeHalt (t : Target) (fault : FaultRecord) (s : State) : State × List Job :=
  match s.admission t with
  | .opened => (s.setAdmission t (.halted fault), [⟨.hif, .seeHalt t⟩])
  | .disabled | .halted _ => (s, [])

/-- The HIF sees that `t` is Halted: a held write for `t` is dropped with a Refused notice (R32), a
Waiting held read of `t` is ended (R84), and an Issued one is left to its access's end (R84). -/
def seeHalt (t : Target) (s : State) : State × List Job :=
  match s.hif.held with
  | some (.write w) =>
    if w.target = t then
      (reply (.apertureWrite w.offset .busError) (endHold s),
       [⟨.hif, .offer (.refused w.target w.offset .halted .write)⟩])
    else (s, [])
  | some (.read r) =>
    if r.target = t ∧ r.phase = .waiting then haltHeldRead r s else (s, [])
  | none => (s, [])

/-- Makes one response. -/
def runTask (task : Task) (s : State) : State × List Job :=
  match task with
  | .takeEnd a => takeEnd a s
  | .halt t fault => takeHalt t fault s
  | .seeHalt t => seeHalt t s
  | .offer n => (offer n s, [])

/-! ## Due events -/

/-- The oldest fence whose wait-set is empty; none retires while the bridge is Clearing (R56). -/
def State.fenceDue? (s : State) : Option FenceEntry :=
  if s.bc.state = .clearing then none
  else s.wq.entries.findSome? fun
    | .fence f =>
      match s.requestOf (.entry f.pn) with
      | some r => if r.waitSet.isEmpty then some f else none
      | none => none
    | .write _ => none

/-- The record of `t` has lost its last member (R120). -/
def State.attentionDue (s : State) (t : Target) : Bool :=
  s.au[t].record.any fun r => r.waitSet.isEmpty

/-- A departure has still to be answered by a re-check of the held write (R30). -/
def State.recheckIsDue (s : State) : Bool := s.hif.recheckDue && s.heldWrite?.isSome

/-- The drain condition holds while the bridge is Quiescing (R147). -/
def State.quiescedDue (s : State) : Bool := s.bc.state == .quiescing && s.drained

/-- CLEAR takes effect: the bridge is Clearing and no access is in flight (R151). -/
def State.clearDue (s : State) : Bool := s.bc.state == .clearing && s.dbe.access.isNone

/-- A stretched cycle is due: the HIF is no longer occupied, or CLEAR takes effect, which the cycle
may come before (R34, R149, R151). -/
def State.stretchedDue (s : State) : Bool :=
  !s.hif.stretched.isEmpty && (s.hif.held.isNone || s.clearDue)

/-- The consequences of a departure: what the arrival that brought it about brings with it. -/
def State.departureDues (s : State) : List Due :=
  (if s.fenceDue?.isSome then [.fence] else [])
    ++ (allTargets.filter s.attentionDue).map .attention
    ++ (if s.recheckIsDue then [.recheck] else [])
    ++ (if s.quiescedDue then [.quiesced] else [])

/-- What belongs to the arrival that brought it about and comes before anything else: the
consequences of departures, then the grant of a request that has just arrived (R53). -/
def State.promptDues (s : State) : List Due :=
  if s.departureDues.isEmpty then (if s.ownGrantDue then [.grant] else []) else s.departureDues

/-- What is due where a grant for which `passed` holds need not come first: after the prompt ones, a
stretched cycle, CLEAR taking effect and the grant, any of which may be first (R53, R151,
assumption 6). -/
def State.duesPassing (passed : State → Bool) (s : State) : List Due :=
  if s.promptDues.isEmpty then
    (if s.stretchedDue then [.stretched] else []) ++ (if s.clearDue then [.clear] else [])
      ++ (if s.grantDue && !passed s then [.grant] else [])
  else s.promptDues

/-- Everything that is due. -/
def State.dues (s : State) : List Due := s.duesPassing fun _ => false

/-- A fence retires: its PN goes to Last Fence Retired, it leaves the queue, and with notify yes a
Fence Retired notice is offered (R56). -/
def retireFence (f : FenceEntry) (s : State) : State × List Job :=
  (leaveQueue [f.pn] false { s with wq := { s.wq with lastFenceRetired := f.pn } },
   if f.notify then [⟨.wq, .offer (.fenceRetired f.pn)⟩] else [])

/-- A held attention record is released: it is removed, and its notice offered (R120). -/
def releaseAttention (t : Target) (s : State) : State × List Job :=
  match s.au[t].record with
  | none => (s, [])
  | some r =>
    ({ s with au := s.au.set t { s.au[t] with record := none } },
     [⟨.au, .offer (.attention t r.count r.writesDropped)⟩])

/-- A held write is refused at its re-check (R30). -/
def refuseHeldWrite (w : HeldWrite) (cause : NoticeCause) (s : State) : State × List Job :=
  (reply (.apertureWrite w.offset .busError) (endHold s),
   [⟨.hif, .offer (.refused w.target w.offset cause .write)⟩])

/-- The re-check of the held write: refused where the bridge is not Running or the target is Halted,
whatever the room; else entered if there is room, and left held if there is none (R30, R33,
assumption 5). -/
def recheckHeldWrite (s : State) : State × List Job :=
  match s.heldWrite? with
  | none => (s, [])
  | some w =>
    if s.bc.state ≠ .running then refuseHeldWrite w .quiescing s
    else if (s.admission w.target).isHalted then refuseHeldWrite w .halted s
    else if s.wq.room then
      (reply (.apertureWrite w.offset (.ready 0)) (enterWrite w (endHold s)), [])
    else ({ s with hif := { s.hif with recheckDue := false } }, [])

/-- The bridge goes to Quiesced and a Quiesced notice is offered (R147). -/
def becomeQuiesced (s : State) : State × List Job :=
  (setBridge .quiesced s, [⟨.bc, .offer .quiesced⟩])

/-- Every block takes its part of CLEAR taking effect, and the bridge becomes Running (R151). -/
def clearEverything (s : State) : State :=
  { s with
    targets := s.targets.map fun e =>
      { e with admission := if e.admission.isHalted then .opened else e.admission }
    wq := { s.wq with entries := [] }
    ou := []
    hif := { s.hif with held := none, holdTimer := none, recheckDue := false }
    bc := { s.bc with state := .running }
    fs := s.fs.map fun _ => .powerOn
    au := s.au.map fun a => { a with record := none }
    nq := s.nq.cleared
    freed := some .other }

/-- The HIF takes the stretched cycle that arrived first (R34). A grant not due before it can be due
only to its own request (R53). -/
def takeStretched (s : State) : State :=
  match s.hif.stretched with
  | [] => s
  | c :: rest =>
    takeCycle c { s with hif := { s.hif with stretched := rest }
                         freed := if s.grantDue then s.freed else none }

/-- Takes a due event. -/
def runDue (d : Due) (s : State) : State × List Job :=
  match d with
  | .fence =>
    match s.fenceDue? with
    | some f => retireFence f s
    | none => (s, [])
  | .attention t => releaseAttention t s
  | .recheck => recheckHeldWrite s
  | .quiesced => becomeQuiesced s
  | .clear => (clearEverything s, [])
  | .stretched => (takeStretched s, [])
  | .grant => (grantChosen s, [])

/-! ## Taking responses and due events in any order -/

/-- A block's next response with the responses left after it, or a due event. -/
inductive Move where
  | job (j : Job) (rest : List Job)
  | due (d : Due)
  deriving DecidableEq, Repr

/-- The responses that can come next, one for each block that has any: a block makes its own in
order (R135). -/
def heads : List Job → List (Job × List Job)
  | [] => []
  | j :: js =>
    (j, js) :: (heads js).filterMap fun (k, rest) =>
      if k.block = j.block then none else some (k, j :: rest)

/-- The moves that can come next. A due event of a block with responses outstanding waits for
them. -/
def moves (work : List Job) (dues : List Due) : List Move :=
  (heads work).map (fun (j, rest) => .job j rest)
    ++ (dues.filter fun d => work.all fun j => j.block != d.block).map .due

/-- One of several moves, by the free choice of order where there is more than one. -/
def choose (ms : List Move) (s : State) : Option (Move × State) :=
  match ms with
  | [] => none
  | [m] => some (m, s)
  | m :: rest =>
    some ((m :: rest).getD (Config.order s.choices % (m :: rest).length) m,
      { s with choices := s.choices + 1 })

/-- Makes a move; the responses it calls for join the outstanding ones. -/
def makeMove (m : Move) (work : List Job) (s : State) : State × List Job :=
  match m with
  | .job j rest =>
    let (s, more) := runTask j.task s
    (s, rest ++ more)
  | .due d =>
    let (s, more) := runDue d s
    (s, work ++ more)

/-- How many moves a task can lead to, itself included. -/
def Task.weight : Task → Nat
  | .takeEnd _ => 5
  | .halt _ _ => 3
  | .seeHalt _ => 2
  | .offer _ => 1

/-- How many moves the due events of a state can lead to. -/
def State.dueWeight (s : State) : Nat :=
  4 * s.wq.entries.countP (·.isFence)
    + 2 * s.au.toList.countP (·.record.isSome)
    + (if s.hif.recheckDue then 2 else 0)
    + (if s.bc.state = .quiescing then 2 else 0)
    + (if s.bc.state = .clearing then 1 else 0)
    + s.hif.stretched.length
    + (if s.dbe.access.isNone then 1 else 0)

/-- A bound on the moves that outstanding responses and due events lead to. -/
def moveBound (work : List Job) (s : State) : Nat :=
  (work.map (·.task.weight)).sum + s.dueWeight

/-- The responses outstanding are made, in any order that keeps each block's own, and due events may
be taken among them; it ends when none is outstanding. -/
def respond : Nat → List Job → State → State
  | 0, _, s => s
  | _ + 1, [], s => s
  | n + 1, j :: js, s =>
    match choose (moves (j :: js) s.departureDues) s with
    | none => s
    | some (m, s) =>
      let (s, work) := makeMove m (j :: js) s
      respond n work s

/-- Makes the responses an arrival calls for. -/
def takeJobs (work : List Job) (s : State) : State := respond (moveBound work s) work s

/-- Takes due events and the responses they call for, until none is left. -/
def drain (dues : State → List Due) : Nat → List Job → State → State
  | 0, _, s => s
  | n + 1, work, s =>
    match choose (moves work (dues s)) s with
    | none => s
    | some (m, s) =>
      let (s, work) := makeMove m work s
      drain dues n work s

/-- Everything due happens, but for a grant for which `passed` holds. -/
def settlePassing (passed : State → Bool) (s : State) : State :=
  drain (State.duesPassing passed) (moveBound [] s) [] s

/-- What belongs to the last arrival happens. -/
def settlePrompt (s : State) : State := drain State.promptDues (moveBound [] s) [] s

/-- The consequences of departures happen. -/
def settleDepartures (s : State) : State := drain State.departureDues (moveBound [] s) [] s

/-- A new step begins: no host cycle has ended in it yet. -/
def newStep (s : State) : State := { s with hif := { s.hif with replies := [] } }

/-- A new arrival begins: it has let the issue arbiter decide on nothing yet. -/
def newArrival (s : State) : State := { s with freed := none }

/-- A new arrival which the manual lets come together with the grants for which `passed` holds, and
be first; what is due otherwise comes first (assumption 6). -/
def arrivePassing (passed : State → Bool) (s : State) : State :=
  newArrival (settlePassing passed (newStep s))

/-- A new arrival: everything that is due belongs to an earlier one and comes first (R30, R34, R53,
R56, R120, R147, R149). -/
def arrive (s : State) : State := arrivePassing (fun _ => false) s

/-- The hold expiry of a Waiting held read may come before its grant (R81). -/
def arriveAtExpiry (s : State) : State :=
  arrivePassing (State.freedGrantOf fun r => r.id == .heldRead) s

/-- A Release may come before the grant of the slot's fetch (R99). -/
def arriveAtRelease (k : SlotNo) (s : State) : State :=
  arrivePassing (State.freedGrantOf fun r => r.id == .fetch k) s

/-- DISCARD may come before the grant of a request of its target (R113). -/
def arriveAtDiscard (t : Target) (s : State) : State :=
  arrivePassing (State.freedGrantOf fun r => r.target == some t) s

/-- CLEAR may come right after the end of an access and find the bus free (R75, R150). -/
def arriveAtClear (s : State) : State := arrivePassing (fun s => s.freed == some .accessEnd) s

/-- An aperture write may come before the grant of the entry it is merged into (R28). -/
def arriveAtWrite (offset : Offset) (size : CycleSize) (data : Word) (s : State) : State :=
  arrivePassing (fun s => (s.mergesInto? offset size data).any fun e =>
    s.freedGrantOf fun r => r.id == .entry e.pn) s

/-- The event of an arrival with its responses. -/
def takeDue (d : Due) (s : State) : State :=
  let (s, work) := runDue d s
  takeJobs work s

end Sys2Proof.Machine
end

