-- ==== Sys2Proof/Machine/Aperture.lean ====
section
/-! DEFINITION. The commands of the aperture: its cycles, taken or stretched, the re-check of the held
write and hold expiry (chapters 2 and 5). -/

namespace Sys2Proof.Machine

/-! ## Stretched cycles (R34) -/

/-- An aperture cycle arrives: while the HIF is occupied, or others are stretched before it, it is
stretched behind them; otherwise it is taken (R34). -/
def apertureArrival (c : ApertureCycle) (s : State) : State :=
  if s.hifOccupied || !s.hif.stretched.isEmpty then
    { s with hif := { s.hif with stretched := s.hif.stretched ++ [c] } }
  else takeCycle c s

/-! ## The commands -/

/-- APERTURE_WRITE (R23, R24, R28, R34). -/
def execApertureWrite (offset : Offset) (size : CycleSize) (data : Word) (s : State) :
    Host.Outcome State Fault Refusal :=
  .next (apertureArrival (.write offset size data) (arriveAtWrite offset size data s))

/-- APERTURE_READ (R77, R78, R34). -/
def execApertureRead (offset : Offset) (size : CycleSize) (s : State) :
    Host.Outcome State Fault Refusal :=
  .next (apertureArrival (.read offset size) (arrive s))

/-- STRETCHED_CYCLE_TAKEN (R34): taken first where CLEAR taking effect, or a grant that is not part of
an earlier arrival, comes together with it (R53, R151). -/
def execStretchedCycleTaken (s : State) : Host.Outcome State Fault Refusal :=
  let s := settlePrompt (newStep s)
  .next (if s.stretchedDue then takeStretched s else s)

/-- HELD_WRITE_RECHECK (R30). -/
def execHeldWriteRecheck (s : State) : Host.Outcome State Fault Refusal :=
  let s := newStep s
  .next (if s.recheckIsDue then takeDue .recheck s else s)

/-- HELD_WRITE_HOLD_EXPIRED: bus error, and a Refused notice with cause Hold Expired (R31). -/
def execHeldWriteHoldExpired (s : State) : Host.Outcome State Fault Refusal :=
  let s := arrive s
  .next (match s.heldWrite?, s.hif.holdTimer with
    | some w, some _ =>
      offer (.refused w.target w.offset .holdExpired .write)
        (reply (.apertureWrite w.offset .busError) (endHold s))
    | _, _ => s)

/-- HOLD_EXPIRY_WAITING: the Waiting held read ends with bus error and a Refused notice with cause
Hold Expired, and departs; its grant may come after it (R81). -/
def execHoldExpiryWaiting (s : State) : Host.Outcome State Fault Refusal :=
  let s := arriveAtExpiry s
  .next (match s.heldRead?, s.hif.holdTimer with
    | some r, some _ =>
      if r.phase = .waiting then
        takeJobs [⟨.hif, .offer (.refused r.target r.offset .holdExpired .read)⟩]
          (reply (.apertureRead r.offset .busError) (dropHeldRead s))
      else s
    | _, _ => s)

/-- The host cycle of an Issued held read is Ended with bus error, its record kept (R82, R85). -/
def endIssuedCycle (r : HeldRead) (s : State) : State :=
  let s := setHeldRead { r with cycle := .ended } s
  reply (.apertureRead r.offset .busError) { s with hif := { s.hif with holdTimer := none } }

/-- HOLD_EXPIRY_ISSUED: the host cycle of the Issued held read ends with bus error; the record is
kept until the access ends (R82). -/
def execHoldExpiryIssued (s : State) : Host.Outcome State Fault Refusal :=
  let s := arrive s
  .next (match s.heldRead?, s.hif.holdTimer with
    | some r, some _ =>
      if r.phase = .issued ∧ r.cycle = .opened then endIssuedCycle r s else s
    | _, _ => s)

end Sys2Proof.Machine
end

