-- ==== Sys2Proof/Machine/Attention.lean ====
section
/-! DEFINITION. The Attention Unit: edges, attention events and held attention records
(chapter 8). -/

namespace Sys2Proof.Machine

/-- The next edge of an input, found by a sample that finds the level opposite to the kept one, is
selected by the attention mode: Rising from Low, Falling from High (R115, R116). -/
def AttentionMode.selects (mode : AttentionMode) (keptHigh : Bool) : Bool :=
  match mode with
  | .off => false
  | .rising => !keptHigh
  | .falling => keptHigh
  | .both => true

/-- The next edge on t's input is an attention event: t is enabled and its live mode selects it
(R116). -/
def State.edgeIsEvent (s : State) (t : Target) : Bool :=
  (s.admission t).enabled && (s.live t).attentionMode.selects s.au[t].high

/-- A sample finds the other level, which replaces the kept one (R115). -/
def flipLevel (t : Target) (s : State) : State :=
  { s with au := s.au.set t { s.au[t] with high := !s.au[t].high } }

/-- Makes or replaces t's held attention record. -/
def setRecord (t : Target) (r : AttentionRecord) (s : State) : State :=
  { s with au := s.au.set t { s.au[t] with record := some r } }

/-- An attention event of t: with attention ordering off a notice at once (R117); with it on, a
record's count goes up to 15 (R119), or a record is made behind t's write entries, or with none a
notice at once (R118). -/
def takeAttention (t : Target) (s : State) : State :=
  if !(s.live t).attentionOrdering then offer (.attention t 1 false) s
  else match s.au[t].record with
    | some r => setRecord t { r with count := if r.count = 15 then 15 else r.count + 1 } s
    | none =>
      if (s.wq.pnsOf t).isEmpty then offer (.attention t 1 false) s
      else setRecord t { count := 1, writesDropped := false, waitSet := s.wq.pnsOf t } s

/-- ATTENTION_EVENT (R116). -/
def execAttentionEvent (t : Target) (s : State) : Host.Outcome State Fault Refusal :=
  let s := arrive s
  .next (if s.edgeIsEvent t then takeAttention t (flipLevel t s) else s)

/-- ATTENTION_INPUT_EDGE: an edge that is no event only replaces the kept level (R115, R116). -/
def execAttentionInputEdge (t : Target) (s : State) : Host.Outcome State Fault Refusal :=
  let s := arrive s
  .next (if s.edgeIsEvent t then s else flipLevel t s)

/-- ATTENTION_RECORD_RELEASED (R120). -/
def execAttentionRecordReleased (t : Target) (s : State) : Host.Outcome State Fault Refusal :=
  let s := newStep s
  .next (if s.attentionDue t then takeDue (.attention t) s else s)

end Sys2Proof.Machine
end

