-- ==== Sys2Proof/Machine/BusEvents.lean ====
section
/-! DEFINITION. The commands of the device bus: the grant, the phases of an access, its end, and the
timers (chapters 3 and 4), with the Watch Unit (chapter 9). -/

namespace Sys2Proof.Machine

/-- ISSUE_GRANT (R51, R52): taken first where a stretched cycle comes together with it (R53). -/
def execIssueGrant (s : State) : Host.Outcome State Fault Refusal :=
  .next (grantChosen (settleDepartures (newStep s)))

/-! ## The phases of an access -/

/-- Changes the access in flight. -/
def setAccess (a : Option Access) (s : State) : State := { s with dbe := { s.dbe with access := a } }

/-- SETUP_COMPLETE: the strobe phase begins, its count at 0 (R64). -/
def execSetupComplete (s : State) : Host.Outcome State Fault Refusal :=
  let s := arrive s
  .next (match s.dbe.access with
    | some a =>
      if a.phase = .setup then setAccess (some { a with phase := .strobe, strobeCount := 0 }) s
      else s
    | none => s)

/-- The strobe is removed at a strobe count with result Done: a Read takes its data from the data
lines, and the hold phase begins (R64, R65, R67). -/
def strobeDone (a : Access) (width : Width) (count : Nat) (lines : LaneWord) : Access :=
  { a with
    phase := .hold, strobeCount := count, result := some .done
    data := if a.isWrite then a.data else takenBytes width a.lanes lines }

/-- STROBE_TIME_REACHED: ready sense off, the strobe lasts exactly the strobe time (R64). -/
def execStrobeTimeReached (lines : LaneWord) (s : State) : Host.Outcome State Fault Refusal :=
  let s := arrive s
  .next (match s.dbe.access with
    | some a =>
      if a.phase = .strobe ∧ a.readySense = false then
        setAccess (some (strobeDone a (s.live a.target).width a.strobe.toNat lines)) s
      else s
    | none => s)

/-- READY_SAMPLED_HIGH: ready sense on, the sample at a strobe count from the strobe time to the
access timeout finds ready high (R65, R66). -/
def execReadySampledHigh (count : Nat) (lines : LaneWord) (s : State) :
    Host.Outcome State Fault Refusal :=
  let s := arrive s
  .next (match s.dbe.access with
    | some a =>
      if a.phase = .strobe ∧ a.readySense = true ∧ a.strobe.toNat ≤ count
          ∧ count ≤ timeoutDP a.timeout then
        setAccess (some (strobeDone a (s.live a.target).width count lines)) s
      else s
    | none => s)

/-- ACCESS_TIMEOUT: ready sense on, the strobe count reaches the access timeout and ready is low; no
data is taken (R66). -/
def execAccessTimeout (s : State) : Host.Outcome State Fault Refusal :=
  let s := arrive s
  .next (match s.dbe.access with
    | some a =>
      if a.phase = .strobe ∧ a.readySense = true then
        setAccess (some { a with phase := .hold, strobeCount := timeoutDP a.timeout
                                 result := some .timeout }) s
      else s
    | none => s)

/-! ## The Watch Unit (chapter 9) -/

/-- The first offset of a comparator's watched range: its offset with the low bits cleared that the
size does not count (R123). -/
def Comparator.rangeBase (c : Comparator) : Nat := c.offset.toNat / c.size.bytes * c.size.bytes

/-- The device addresses of the bytes an access carries (R126). -/
def Access.carried (a : Access) : List Nat :=
  match a.lanes with
  | .low | .high => [a.address.toNat]
  | .both => [a.address.toNat, a.address.toNat + 1]

/-- The comparator's kind takes in the access (R126). -/
def WatchKind.takes (kind : WatchKind) (a : Access) : Bool :=
  match kind with
  | .any => true
  | .write => a.isWrite
  | .read => !a.isWrite

/-- An access matches an armed comparator (R126). -/
def Comparator.matchesAccess (c : Comparator) (a : Access) : Bool :=
  c.armed && c.kind.takes a
    && a.carried.any fun o => c.rangeBase ≤ o && o < c.rangeBase + c.size.bytes

/-- The comparator's remaining count, lowered by a match, reaches 0 (R127). -/
def Comparator.fires (c : Comparator) (a : Access) : Bool := c.matchesAccess a && c.remaining == 1

/-- The comparator after an access's end: a match lowers its count; firing starts the count again
with repeat on, and disarms it with repeat off (R127). -/
def Comparator.after (c : Comparator) (a : Access) : Comparator :=
  if c.fires a then
    if c.repeats then { c with remaining := c.count } else { c with remaining := 0, armed := false }
  else if c.matchesAccess a then { c with remaining := c.remaining - 1 }
  else c

/-- The access kind of a Watch Hit (R128). -/
def Access.accessClass (a : Access) : AccessClass :=
  match a.request with
  | .entry _ => .write
  | .heldRead => .read
  | .fetch _ => .fetch

/-- The PN of a write entry's access; none for a read (R128). -/
def Access.pn? (a : Access) : Option PN :=
  match a.request with
  | .entry pn => some pn
  | .heldRead | .fetch _ => none

/-- What comparator n does at an access's end if it fires: a Watch Hit notice and, with action Halt,
a halt of the access's target (R128, R129). -/
def watchJobs (a : Access) (n : ComparatorNo) (c : Comparator) : List Job :=
  if c.fires a then
    ⟨.wu, .offer (.watchHit n a.target a.address a.lanes a.data a.accessClass a.pn?
        (c.action == .halt))⟩
      :: (if c.action = .halt then
            [⟨.tt, .halt a.target (.watch a.pn? a.address a.lanes a.data n)⟩] else [])
  else []

/-- What all four comparators do, in comparator order (R128, R131). -/
def State.watchJobs (s : State) (a : Access) : List Job :=
  allSlots.flatMap fun n => Machine.watchJobs a n s.wu[n]

/-! ## The end of an access -/

/-- The fault record of an access that ended Timeout (R12). -/
def Access.fault (a : Access) : FaultRecord :=
  match a.request with
  | .entry pn => .writeTimeout pn a.address a.lanes a.data
  | .heldRead => .readTimeout a.address a.lanes
  | .fetch k => .fetchTimeout a.address a.lanes k

/-- A timer started for an interval: one of 0 DP starts none (R71, R72). -/
def startTimer (timer : Option Nat) (interval : Nat) : Option Nat :=
  if interval = 0 then timer else some interval

/-- The bus becomes free: the target's recovery timer and, after a Read, the turnaround timer start,
and the address lines keep the device address (R62, R71, R72). -/
def freeBus (a : Access) (s : State) : State :=
  { s with freed := some .accessEnd, dbe := {
      access := none
      recovery := s.dbe.recovery.set a.target
        (startTimer s.dbe.recovery[a.target] (s.live a.target).recoveryDP)
      turnaround := if a.isWrite then s.dbe.turnaround
        else startTimer s.dbe.turnaround s.bc.config.turnaround.toNat
      addressLines := a.address } }

/-- Who takes the end of an access: the owner of its request; for a Timeout the TT; for a Done the
comparators (R73). -/
def State.endJobs (s : State) (a : Access) : List Job :=
  ⟨a.request.owner, .takeEnd a⟩ ::
    (match a.result with
      | some .timeout => [⟨.tt, .halt a.target a.fault⟩]
      | some .done => s.watchJobs a
      | none => [])

/-- Every comparator after the end of a Done access (R125). -/
def countWatches (a : Access) (s : State) : State :=
  if a.result = some .done then { s with wu := s.wu.map (·.after a) } else s

/-- The end of an access: handed to the blocks, but to none while the bridge is Clearing
(R73, R75). -/
def endAccess (a : Access) (s : State) : State :=
  if s.bc.state = .clearing then freeBus a s
  else takeJobs (s.endJobs a) (countWatches a (freeBus a s))

/-- ACCESS_END (R67, R73). -/
def execAccessEnd (s : State) : Host.Outcome State Fault Refusal :=
  let s := arrive s
  .next (match s.dbe.access with
    | some a => if a.phase = .hold then endAccess a s else s
    | none => s)

/-! ## Timers -/

/-- RECOVERY_TIMER_EXPIRES: target t's recovery timer stops (R71). -/
def execRecoveryTimerExpires (t : Target) (s : State) : Host.Outcome State Fault Refusal :=
  let s := arrive s
  .next (markFreed { s with dbe := { s.dbe with recovery := s.dbe.recovery.set t none } })

/-- TURNAROUND_TIMER_EXPIRES: the read-turnaround timer stops (R72). -/
def execTurnaroundTimerExpires (s : State) : Host.Outcome State Fault Refusal :=
  let s := arrive s
  .next (markFreed { s with dbe := { s.dbe with turnaround := none } })

end Sys2Proof.Machine
end

