-- ==== Sys2Proof/Machine/BusPins.lean ====
section
/-! DEFINITION. The output pins of the device bus as a view of the access in flight (sections 4.2 and
4.3). -/

namespace Sys2Proof.Machine

/-- The outputs of the device bus: asserted or not, whatever the pin's polarity. -/
structure BusPins where
  /-- the target select asserted, if any (DSEL) -/
  select : Option Target
  /-- DA15 to DA0 -/
  address : Offset
  /-- byte-lane selects DLL and DLH -/
  laneLow : Bool
  laneHigh : Bool
  /-- read strobe DRD -/
  readStrobe : Bool
  /-- write strobe DWR -/
  writeStrobe : Bool
  /-- data lines 0 to 7, if driven -/
  dataLow : Option Byte
  /-- data lines 8 to 15, if driven -/
  dataHigh : Option Byte
  deriving DecidableEq, Repr

/-- The bytes a Write drives: a byte-wide device takes every byte on lines 0 to 7 (R61). -/
def drivenBytes (width : Width) (a : Access) : Option Byte × Option Byte :=
  match width, a.lanes with
  | .byte, .high => (some (highByte a.data), none)
  | _, .low => (some (lowByte a.data), none)
  | .half, .high => (none, some (highByte a.data))
  | _, .both => (some (lowByte a.data), some (highByte a.data))

/-- The pins: while the bus is free nothing is asserted or driven and the address lines keep the last
device address (R62); during an access select, address and lanes stand throughout, the strobe in the
strobe phase only, and write data throughout (R61, R63, R64, R67). -/
def State.busPins (s : State) : BusPins :=
  match s.dbe.access with
  | none =>
    { select := none, address := s.dbe.addressLines, laneLow := false, laneHigh := false
      readStrobe := false, writeStrobe := false, dataLow := none, dataHigh := none }
  | some a =>
    let driven := drivenBytes (s.live a.target).width a
    { select := some a.target, address := a.address
      laneLow := a.lanes.hasLow, laneHigh := a.lanes.hasHigh
      readStrobe := a.phase == .strobe && !a.isWrite
      writeStrobe := a.phase == .strobe && a.isWrite
      dataLow := if a.isWrite then driven.1 else none
      dataHigh := if a.isWrite then driven.2 else none }

end Sys2Proof.Machine
end

