-- ==== Sys2Proof/Machine/RegisterWrites.lean ====
section
/-! DEFINITION. Word writes to the registers of the register window, but for the Command register
(R87, and the rule of each register), and the cycles that act on nothing. -/

namespace Sys2Proof.Machine

/-- A word write to the register window ends with ready whatever it does (R87). -/
def registerReady (s : State) : State := reply (.registerWindow (.ready 0)) s

/-- REGISTER_WINDOW_BUS_ERROR: a cycle that is no word cycle ends with bus error and acts on nothing
(R87, R159). -/
def execRegisterWindowBusError (_write : Bool) (_offset : BitVec 8) (_size : CycleSize) (s : State) :
    Host.Outcome State Fault Refusal :=
  .next (reply (.registerWindow .busError) (arrive s))

/-- REGISTER_WRITE: a word write where no register takes one ends with ready, its value discarded
(R87, R154). -/
def execRegisterWrite (_offset : BitVec 8) (_value : Word) (s : State) :
    Host.Outcome State Fault Refusal :=
  .next (registerReady (arrive s))

/-- Changes the staged configuration of a target; nothing else of its entry changes (R1). -/
def stage (t : Target) (f : TargetConfig → TargetConfig) (s : State) : State :=
  s.setTarget t { s.targets[t] with staged := f s.targets[t].staged }

/-- WINDOW: a write to target t's Window register (R1). -/
def execWindow (t : Target) (v : Word) (s : State) : Host.Outcome State Fault Refusal :=
  .next (registerReady (stage t (·.writeWindow v) (arrive s)))

/-- TIMING: a write to target t's Timing register (R1). -/
def execTiming (t : Target) (v : Word) (s : State) : Host.Outcome State Fault Refusal :=
  .next (registerReady (stage t (·.writeTiming v) (arrive s)))

/-- WATCH_COMPARATOR: a write to comparator n's word (R124). -/
def execWatchComparator (n : ComparatorNo) (v : Word) (s : State) :
    Host.Outcome State Fault Refusal :=
  let s := arrive s
  .next (registerReady { s with wu := s.wu.set n (comparatorOfWord v) })

/-- NOTICE_SELECT (R136). -/
def execNoticeSelect (v : Word) (s : State) : Host.Outcome State Fault Refusal :=
  let s := arrive s
  .next (registerReady { s with nq := s.nq.writeSelect v })

/-- EVENT_SUMMARY (R136). -/
def execEventSummary (v : Word) (s : State) : Host.Outcome State Fault Refusal :=
  let s := arrive s
  .next (registerReady { s with nq := s.nq.clearSummary v })

/-- BRIDGE_CONFIGURATION (R145). -/
def execBridgeConfiguration (v : Word) (s : State) : Host.Outcome State Fault Refusal :=
  let s := arrive s
  .next (registerReady { s with bc := { s.bc with config := bridgeConfigOfWord v } })

/-- NOTICE_POP: a write of any value removes the head record (R139). -/
def execNoticePop (_value : Word) (s : State) : Host.Outcome State Fault Refusal :=
  let s := arrive s
  .next (registerReady { s with nq := s.nq.pop })

end Sys2Proof.Machine
end

