-- ==== Sys2Proof/Machine/Commands.lean ====
section
/-! DEFINITION. The Command register: what each command does, and Command Status (chapters 1, 3, 7
and 11). -/

namespace Sys2Proof.Machine

/-- What a block answers to a command: the state it leaves, the result and the detail. -/
structure Answer where
  state : State
  result : CommandResult
  detail : Detail

/-- A refusal: nothing is changed outside Command Status (R144). -/
def refuse (result : CommandResult) (detail : Detail) (s : State) : Answer := ⟨s, result, detail⟩

/-- An acceptance. -/
def accept (detail : Detail) (s : State) : Answer := ⟨s, .accepted, detail⟩

/-- Command Status takes the command's code, its result and its detail (R144), and the host cycle
ends with ready (R143). -/
def settleCommand (code : BitVec 8) (a : Answer) : State :=
  reply (.registerWindow (.ready 0))
    { a.state with bc := { a.state.bc with status := ⟨code, a.result, a.detail⟩ } }

/-- A write to the Command register, in the state it meets: while Clearing every command is refused
with Refused-Clearing; otherwise it is handled by its block (R143). -/
def takeCommand (code : BitVec 8) (block : State → Answer) (s : State) : State :=
  settleCommand code (if s.bc.state = .clearing then refuse .refusedClearing .none s else block s)

/-- The detail that names an admission state found. -/
def Admission.detail : Admission → Detail
  | .disabled => .disabled
  | .opened => .opened
  | .halted _ => .halted

/-! ## ENABLE and DISABLE (section 1.2) -/

/-- The lowest-numbered enabled target whose live window meets the configuration's window (R4). -/
def State.overlap? (s : State) (c : TargetConfig) : Option Target :=
  allTargets.find? fun u => (s.admission u).enabled && windowsMeet c (s.live u)

/-- The four checks of ENABLE, in order; none when all pass (R4). -/
def State.enableFault? (s : State) (c : TargetConfig) : Option Detail :=
  if c.base.toNat % c.size.bytes ≠ 0 then some .alignment
  else if c.strobe = 0 then some .strobe
  else if c.timeout = 0 then some .timeout
  else (s.overlap? c).map .overlap

/-- ENABLE of target t (R4, R5). -/
def enableTarget (t : Target) (s : State) : Answer :=
  match s.admission t with
  | .disabled =>
    let c := s.targets[t].staged
    match s.enableFault? c with
    | some detail => refuse .refusedArgument detail s
    | none => accept .none (markFreed (s.setTarget t ⟨c, c, .opened⟩))
  | a => refuse .refusedState a.detail s

/-- The HIF holds a cycle whose offset decoded to t (R6). -/
def State.holdsCycleOf (s : State) (t : Target) : Bool :=
  match s.hif.held with
  | some (.write w) => w.target == t
  | some (.read r) => r.target == t
  | none => false

/-- The first condition that keeps an enabled target from being disabled (R6). -/
def State.busyWith? (s : State) (t : Target) : Option Detail :=
  if s.inFlight t then some .inFlight
  else if s.holdsCycleOf t then some .heldCycle
  else if s.wq.entries.any (·.isWriteOf t) then some .writeEntry
  else if s.fs.toList.any (fun r => r.state.holdsRequest && r.target == t) then some .fetch
  else if s.au[t].record.isSome then some .attentionRecord
  else none

/-- DISABLE of target t (R6, R7). -/
def disableTarget (t : Target) (s : State) : Answer :=
  if (s.admission t).enabled then
    match s.busyWith? t with
    | some detail => refuse .refusedBusy detail s
    | none => accept .none (s.setAdmission t .disabled)
  else refuse .refusedState .disabled s

/-- ENABLE. -/
def execEnable (t : Target) (s : State) : Host.Outcome State Fault Refusal :=
  .next (takeCommand 0x01#8 (enableTarget t) (arrive s))

/-- DISABLE. -/
def execDisable (t : Target) (s : State) : Host.Outcome State Fault Refusal :=
  .next (takeCommand 0x02#8 (disableTarget t) (arrive s))

/-! ## FENCE (section 3.6) -/

/-- FENCE: a fence entry at the tail, which arrives at the OU with the whole present set as its
wait-set; Refused-Full without room. If its wait-set is empty, its retirement is due (R55, R56). -/
def postFence (notify : Bool) (s : State) : Answer :=
  if s.wq.room then
    accept (.number s.wq.nextPn)
      (arriveRequest (.entry s.wq.nextPn) none
        { s with wq := s.wq.push (.fence ⟨s.wq.nextPn, notify⟩) })
  else refuse .refusedFull .none s

/-- FENCE. -/
def execFence (notify : Bool) (s : State) : Host.Outcome State Fault Refusal :=
  .next (takeCommand 0x03#8 (postFence notify) (arrive s))

/-! ## RESUME, SKIP and DISCARD (section 7.3) -/

/-- RESUME of target t: Open again, the failed mark of its failed entry cleared (R107). -/
def resumeTarget (t : Target) (s : State) : Answer :=
  match s.admission t with
  | .halted (.writeTimeout pn _ _ _) =>
    accept (.number pn) (updateEntry pn (fun e => { e with failed := false })
      (s.openTarget t))
  | .halted _ => accept (.number 0) (s.openTarget t)
  | a => refuse .refusedState a.detail s

/-- SKIP of target t: only a target Halted by Write Timeout, whose failed entry is removed (R109). -/
def skipTarget (t : Target) (s : State) : Answer :=
  match s.admission t with
  | .halted (.writeTimeout pn _ _ _) =>
    accept (.number pn) (leaveQueue [pn] true (s.openTarget t))
  | .halted (.readTimeout ..) => refuse .refusedState .readTimeout s
  | .halted (.fetchTimeout ..) => refuse .refusedState .fetchTimeout s
  | .halted (.watch ..) => refuse .refusedState .watch s
  | a => refuse .refusedState a.detail s

/-- DISCARD of target t: every write entry of t is removed, and t is Open (R110). -/
def discardTarget (t : Target) (s : State) : Answer :=
  if !(s.admission t).enabled then refuse .refusedState .disabled s
  else if s.inFlight t then refuse .refusedBusy .inFlight s
  else
    let pns := s.wq.pnsOf t
    accept (.number (BitVec.ofNat 16 pns.length)) (leaveQueue pns true (s.openTarget t))

/-- RESUME. -/
def execResume (t : Target) (s : State) : Host.Outcome State Fault Refusal :=
  .next (takeCommand 0x04#8 (resumeTarget t) (arrive s))

/-- SKIP. -/
def execSkip (t : Target) (s : State) : Host.Outcome State Fault Refusal :=
  .next (takeCommand 0x05#8 (skipTarget t) (arrive s))

/-- DISCARD; the grant of a request of its target may come after it (R113). -/
def execDiscard (t : Target) (s : State) : Host.Outcome State Fault Refusal :=
  .next (takeCommand 0x06#8 (discardTarget t) (arriveAtDiscard t s))

/-! ## QUIESCE, OPEN and CLEAR (sections 11.3, 11.4) -/

/-- The detail that names a bridge state. -/
def BridgeState.detail : BridgeState → Detail
  | .running => .running
  | .quiescing => .quiescing
  | .quiesced => .quiesced
  | .clearing => .none

/-- QUIESCE: straight to Quiesced with its notice where the drain condition holds (R146). -/
def quiesceBridge (s : State) : Answer :=
  if s.bc.state = .running then
    if s.drained then accept .quiesced (offer .quiesced (setBridge .quiesced s))
    else accept .quiescing (setBridge .quiescing s)
  else refuse .refusedState s.bc.state.detail s

/-- OPEN: back to Running (R148). -/
def openFromQuiesce (s : State) : Answer :=
  if s.bc.state = .running then refuse .refusedState .running s
  else accept s.bc.state.detail (setBridge .running s)

/-- What CLEAR does to the held cycle at its arrival (R33, R85, R149). -/
def clearHeldCycle (s : State) : State :=
  match s.hif.held with
  | some (.write w) => reply (.apertureWrite w.offset .busError) (endHold s)
  | some (.read r) =>
    match r.phase, r.cycle with
    | .waiting, _ => reply (.apertureRead r.offset .busError) (dropHeldRead s)
    | .issued, .opened => endIssuedCycle r s
    | .issued, .ended => s
  | none => s

/-- CLEAR: the bridge is Clearing, the held cycle ended, every comparator disarmed (R149, R132).
With no access in flight its taking effect is due (R151). -/
def clearBridge (s : State) : Answer :=
  let s := clearHeldCycle s
  accept .none (setBridge .clearing { s with wu := s.wu.map fun c => { c with armed := false } })

/-- QUIESCE. -/
def execQuiesce (s : State) : Host.Outcome State Fault Refusal :=
  .next (takeCommand 0x07#8 quiesceBridge (arrive s))

/-- OPEN. -/
def execOpenBridge (s : State) : Host.Outcome State Fault Refusal :=
  .next (takeCommand 0x08#8 openFromQuiesce (arrive s))

/-- CLEAR; right after the end of an access it finds the bus free (R75, R150). -/
def execClear (s : State) : Host.Outcome State Fault Refusal :=
  .next (takeCommand 0x09#8 clearBridge (arriveAtClear s))

/-- UNKNOWN_COMMAND: Refused-Argument, detail Unknown Command (R143, R155). -/
def execUnknownCommand (code : BitVec 8) (s : State) : Host.Outcome State Fault Refusal :=
  .next (takeCommand code (refuse .refusedArgument .unknownCommand) (arrive s))

/-- CLEAR_TAKES_EFFECT (R151). -/
def execClearTakesEffect (s : State) : Host.Outcome State Fault Refusal :=
  let s := newStep s
  .next (if s.clearDue then clearEverything s else s)

/-- QUIESCED (R147). -/
def execQuiesced (s : State) : Host.Outcome State Fault Refusal :=
  let s := newStep s
  .next (if s.quiescedDue then takeDue .quiesced s else s)

/-- FENCE_RETIRED (R56). -/
def execFenceRetired (s : State) : Host.Outcome State Fault Refusal :=
  let s := newStep s
  .next (if s.fenceDue?.isSome then takeDue .fence s else s)

/-- POWER_ON_RESET: every block takes its power-on values, an access in flight and host cycles in
progress are abandoned, and the kept levels come from the first sample after the reset (R152, R76,
R88, R115). The commands waiting outside stay. -/
def execPowerOnReset (levels : BitVec 8) (s : State) : Host.Outcome State Fault Refusal :=
  .next { State.reset with
    pending := s.pending
    au := Vector.ofFn fun t => { high := levels.getLsbD t.val, record := none }
    choices := s.choices }

end Sys2Proof.Machine
end

