-- ==== Sys2Proof/Machine/FetchSlots.lean ====
section
/-! DEFINITION. The Request and Release registers of the fetch slots (chapter 6). -/

namespace Sys2Proof.Machine

/-- The record a Request leaves in a Free slot: the offset as fixed, the lanes and notify, the
refused indication cleared (R90, R91). -/
def requestedSlot (v : Word) (state : SlotState) (result : SlotResult) (target : Target) :
    FetchSlot :=
  { FetchSlot.powerOn with
    state := state, offset := requestOffset v, lanes := requestLanes v
    notify := requestNotify v, target := target, result := result }

/-- Decode of a fetch: lanes Both at an odd offset is Decode Miss with cause Width (R8). -/
def State.decodeFetch (s : State) (v : Word) : Decoded :=
  if requestLanes v = .both ∧ (requestOffset v).getLsbD 0 then .miss .width
  else s.decodeLanes (requestOffset v) (requestLanes v)

/-- A Fetch Failed notice for a Request, with notify yes (R96). -/
def offerFetchFailed (k : SlotNo) (v : Word) (t : Option Target) (cause : NoticeCause) (s : State) :
    State :=
  if requestNotify v then offer (.fetchFailed k t cause) s else s

/-- A Request to a Free slot, outside Clearing and in it (R90, R91). -/
def takeRequest (k : SlotNo) (v : Word) (s : State) : State :=
  if s.bc.state = .clearing then setSlot k (requestedSlot v .failed .refused 0) s
  else match s.decodeFetch v with
    | .miss _ =>
      offerFetchFailed k v none .decodeMiss (setSlot k (requestedSlot v .failed .decodeMiss 0) s)
    | .hit t _ =>
      if (s.admission t).isHalted then
        offerFetchFailed k v (some t) .halted (setSlot k (requestedSlot v .failed .halted t) s)
      else arriveRequest (.fetch k) (some t) (setSlot k (requestedSlot v .waiting .none t) s)

/-- REQUEST: a Request to a slot that is not Free is ignored and sets its refused indication
(R91). -/
def execRequest (k : SlotNo) (v : Word) (s : State) : Host.Outcome State Fault Refusal :=
  let s := arrive s
  .next (registerReady (
    if s.fs[k].state = .free then takeRequest k v s
    else setSlot k { s.fs[k] with refused := true } s))

/-- Release by the slot's state (R98). -/
def releaseSlot (k : SlotNo) (s : State) : State :=
  match s.fs[k].state with
  | .free | .cancelling => s
  | .waiting => depart [.fetch k] (setSlot k s.fs[k].freed s)
  | .issued => setSlot k { s.fs[k] with state := .cancelling } s
  | .done | .failed => setSlot k s.fs[k].freed s

/-- RELEASE: a write of any value to slot k's Release register (R98); the grant of
its fetch may come after it (R99). -/
def execRelease (k : SlotNo) (_value : Word) (s : State) : Host.Outcome State Fault Refusal :=
  .next (registerReady (releaseSlot k (arriveAtRelease k s)))

end Sys2Proof.Machine
end

