-- ==== Sys2Proof/Machine/RegisterRead.lean ====
section
/-! DEFINITION. What software reads: every register of the register window as a view of the state
(chapter 12). A read has no side effect (R153) and is no row of the table (assumption 7). -/

namespace Sys2Proof.Machine

/-- A value placed with its lowest bit at bit `lo` of a register word (R153). -/
def atBit {n : Nat} (value : BitVec n) (lo : Nat) : Word := value.setWidth 32 <<< lo

/-- A flag at bit `lo`. -/
def flagAt (b : Bool) (lo : Nat) : Word := atBit (BitVec.ofBool b) lo

/-- A small number at bit `lo`. -/
def numberAt (n lo : Nat) : Word := BitVec.ofNat 32 n <<< lo

/-! ## Codes (sections 12.3, 12.4) -/

/-- Size code of a Window register. -/
def WindowSize.code : WindowSize → Nat
  | .s256 => 0 | .s512 => 1 | .s1K => 2 | .s2K => 3 | .s4K => 4
  | .s8K => 5 | .s16K => 6 | .s32K => 7 | .s64K => 8

/-- Attention mode code. -/
def AttentionMode.code : AttentionMode → Nat
  | .off => 0 | .rising => 1 | .falling => 2 | .both => 3

/-- Lanes code; 0 stands for absent. -/
def Lanes.code : Lanes → Nat
  | .low => 1 | .high => 2 | .both => 3

/-- Bridge state code. -/
def BridgeState.code : BridgeState → Nat
  | .running => 0 | .quiescing => 1 | .quiesced => 2 | .clearing => 3

/-- Result code of Command Status (R155). -/
def CommandResult.code : CommandResult → Nat
  | .none => 0 | .accepted => 1 | .refusedBusy => 2 | .refusedState => 3 | .refusedFull => 4
  | .refusedArgument => 5 | .refusedClearing => 6

/-- Detail code of Command Status (R155). -/
def Detail.code : Detail → Nat
  | .none => 0 | .number _ => 1 | .opened => 2 | .halted => 3 | .disabled => 4 | .running => 5
  | .quiescing => 6 | .quiesced => 7 | .alignment => 8 | .strobe => 9 | .timeout => 10
  | .overlap _ => 11 | .inFlight => 12 | .heldCycle => 13 | .writeEntry => 14 | .fetch => 15
  | .attentionRecord => 16 | .readTimeout => 17 | .fetchTimeout => 18 | .watch => 19
  | .unknownCommand => 20

/-- Detail number of Command Status, nonzero only for Number and Overlap (R155). -/
def Detail.number? : Detail → BitVec 16
  | .number n => n
  | .overlap t => BitVec.ofNat 16 t.val
  | _ => 0

/-- State code of a fetch slot. -/
def SlotState.code : SlotState → Nat
  | .free => 0 | .waiting => 1 | .issued => 2 | .cancelling => 3 | .done => 4 | .failed => 5

/-- Result code of a fetch slot. -/
def SlotResult.code : SlotResult → Nat
  | .none => 0 | .done => 1 | .timeout => 2 | .halted => 3 | .decodeMiss => 4 | .refused => 5

/-- Size code of a comparator. -/
def WatchSize.code : WatchSize → Nat
  | .one => 0 | .two => 1 | .four => 2

/-- Kind code of a comparator. -/
def WatchKind.code : WatchKind → Nat
  | .any => 0 | .write => 1 | .read => 2

/-- Cause code of a notice; 0 stands for absent. -/
def NoticeCause.code : NoticeCause → Nat
  | .timeout => 1 | .halted => 2 | .holdExpired => 3 | .quiescing => 4 | .decodeMiss => 5
  | .noWindow => 6 | .width => 7

/-- Access kind code of a notice; 0 stands for absent. -/
def AccessClass.code : AccessClass → Nat
  | .write => 1 | .read => 2 | .fetch => 3

/-! ## Bridge registers -/

/-- The held access code of Bridge Status. -/
def HostInterface.heldCode (h : HostInterface) : Nat :=
  match h.held with
  | none => 0
  | some (.write _) => 1
  | some (.read r) => if r.phase = .waiting then 2 else 3

/-- Bridge Status. -/
def State.bridgeStatus (s : State) : Word :=
  numberAt s.bc.state.code 0 ||| flagAt s.dbe.access.isSome 2 ||| flagAt s.interruptLine 3
    ||| numberAt s.wq.entries.length 4 ||| numberAt s.hif.heldCode 8
    ||| numberAt s.nq.records.length 10
    ||| flagAt s.fs[0].refused 16 ||| flagAt s.fs[1].refused 17
    ||| flagAt s.fs[2].refused 18 ||| flagAt s.fs[3].refused 19

/-- Bridge Configuration. -/
def BridgeConfig.word (c : BridgeConfig) : Word :=
  atBit c.holdLimit 0 ||| atBit c.turnaround 8 ||| flagAt c.interruptEnable 16

/-- Command Status (R155). -/
def CommandStatus.word (c : CommandStatus) : Word :=
  atBit c.command 0 ||| numberAt c.result.code 8 ||| numberAt c.detail.code 11
    ||| atBit c.detail.number? 16

/-- Posting Status. -/
def WriteQueue.word (q : WriteQueue) : Word := atBit q.nextPn 0 ||| atBit q.oldestOutstanding 16

/-! ## Notice Head (R138) -/

/-- The fields of a record, absent ones zero: target, index, cause, access kind, lanes, flag,
offset, data, PN, count (R133, R138). -/
structure NoticeFields where
  target : Nat := 0
  index : Nat := 0
  cause : Nat := 0
  accessKind : Nat := 0
  lanes : Nat := 0
  flag : Bool := false
  offset : Offset := 0
  data : LaneWord := 0
  pn : PN := 0
  count : Nat := 0

/-- The fields of each kind (R133). -/
def RecordBody.fields : RecordBody → NoticeFields
  | .overflow count => { count := count.toNat }
  | .notice (.writeFault t pn offset lanes data cause) =>
    { target := t.val, pn := pn, offset := offset, lanes := lanes.code, data := data
      cause := cause.code }
  | .notice (.readFault t offset lanes cause) =>
    { target := t.val, offset := offset, lanes := lanes.code, cause := cause.code }
  | .notice (.lateRead t offset lanes data) =>
    { target := t.val, offset := offset, lanes := lanes.code, data := data }
  | .notice (.fetchDone slot t offset data) =>
    { index := slot.val, target := t.val, offset := offset, data := data }
  | .notice (.fetchFailed slot t cause) =>
    { index := slot.val, target := (t.map (·.val)).getD 0, cause := cause.code }
  | .notice (.fenceRetired pn) => { pn := pn }
  | .notice (.attention t count dropped) => { target := t.val, count := count, flag := dropped }
  | .notice (.watchHit n t offset lanes data kind pn halted) =>
    { index := n.val, target := t.val, offset := offset, lanes := lanes.code, data := data
      accessKind := kind.code, pn := pn.getD 0, flag := halted }
  | .notice (.decodeMiss offset cause kind) =>
    { offset := offset, cause := cause.code, accessKind := kind.code }
  | .notice (.refused t offset cause kind) =>
    { target := t.val, offset := offset, cause := cause.code, accessKind := kind.code }
  | .notice .quiesced => {}

/-- Notice Head A; zero while the queue is empty. -/
def NoticeQueue.headA (q : NoticeQueue) : Word :=
  match q.records.head? with
  | none => 0
  | some r =>
    let f := r.body.fields
    atBit r.sequence 0 ||| numberAt r.body.code 8 ||| numberAt f.target 12 ||| numberAt f.index 16
      ||| numberAt f.cause 20 ||| numberAt f.accessKind 24 ||| numberAt f.lanes 26
      ||| flagAt f.flag 28

/-- Notice Head B. -/
def NoticeQueue.headB (q : NoticeQueue) : Word :=
  match q.records.head? with
  | none => 0
  | some r => atBit r.body.fields.offset 0 ||| atBit r.body.fields.data 16

/-- Notice Head C. -/
def NoticeQueue.headC (q : NoticeQueue) : Word :=
  match q.records.head? with
  | none => 0
  | some r => atBit r.body.fields.pn 0 ||| numberAt r.body.fields.count 16

/-! ## Comparators, slots, targets -/

/-- A comparator's word: in the count position, remaining while armed and the programmed count while
disarmed (R123). -/
def Comparator.word (c : Comparator) : Word :=
  atBit c.offset 0 ||| numberAt c.size.code 16 ||| numberAt c.kind.code 18
    ||| atBit (if c.armed then c.remaining else c.count) 20 ||| flagAt (c.action == .halt) 24
    ||| flagAt c.repeats 25 ||| flagAt c.armed 31

/-- The target a Failed slot shows: zero for the results Decode Miss and Refused (R97). -/
def FetchSlot.shownTarget (r : FetchSlot) : Nat :=
  if r.result = .decodeMiss ∨ r.result = .refused then 0 else r.target.val

/-- A slot's Result register (R97, R156): in Free only the state, zero; low half done only of a
present request; the result only of a finished one; data only in Done. -/
def FetchSlot.word (r : FetchSlot) : Word :=
  match r.state with
  | .free => 0
  | .waiting | .issued | .cancelling =>
    numberAt r.state.code 0 ||| numberAt r.target.val 8 ||| numberAt r.lanes.code 12
      ||| flagAt r.lowHalfDone 14
  | .done =>
    numberAt r.state.code 0 ||| numberAt r.result.code 4 ||| numberAt r.target.val 8
      ||| numberAt r.lanes.code 12 ||| atBit (lowByte r.data) 16 ||| atBit (highByte r.data) 24
  | .failed =>
    numberAt r.state.code 0 ||| numberAt r.result.code 4 ||| numberAt r.shownTarget 8
      ||| numberAt r.lanes.code 12

/-- A Window register: the staged fields (R1). -/
def TargetConfig.windowWord (c : TargetConfig) : Word :=
  atBit c.base 0 ||| numberAt c.size.code 16 ||| flagAt (c.width == .half) 20
    ||| flagAt (c.ordering == .strict) 21 ||| flagAt c.coalesce 22 ||| flagAt c.readySense 23
    ||| numberAt c.attentionMode.code 24 ||| flagAt c.attentionOrdering 26

/-- A Timing register: the staged fields (R1). -/
def TargetConfig.timingWord (c : TargetConfig) : Word :=
  atBit c.setup 0 ||| atBit c.strobe 4 ||| atBit c.hold 8 ||| atBit c.recovery 16
    ||| atBit c.timeout 24

/-- The fault fields of Target Status: cause, lanes, slot or comparator, PN (R13, R157). -/
def FaultRecord.statusWord : FaultRecord → Word
  | .writeTimeout pn _ lanes _ => numberAt 1 8 ||| numberAt lanes.code 12 ||| atBit pn 16
  | .readTimeout _ lanes => numberAt 2 8 ||| numberAt lanes.code 12
  | .fetchTimeout _ lanes slot => numberAt 3 8 ||| numberAt lanes.code 12 ||| numberAt slot.val 14
  | .watch pn _ lanes _ n =>
    numberAt 4 8 ||| numberAt lanes.code 12 ||| numberAt n.val 14 ||| atBit (pn.getD 0) 16

/-- The Fault Detail register of a record: offset and data (R13). -/
def FaultRecord.detailWord : FaultRecord → Word
  | .writeTimeout _ offset _ data => atBit offset 0 ||| atBit data 16
  | .readTimeout offset _ => atBit offset 0
  | .fetchTimeout offset _ _ => atBit offset 0
  | .watch _ offset _ data _ => atBit offset 0 ||| atBit data 16

/-- The fault record of a target, if it is Halted. -/
def Admission.fault? : Admission → Option FaultRecord
  | .halted f => some f
  | .disabled | .opened => none

/-- The admission code (R157). -/
def Admission.code : Admission → Nat
  | .disabled => 0
  | .opened => 1
  | .halted _ => 2

/-- The held attention count of a target, 0 without a record (section 8.3). -/
def State.heldAttentionCount (s : State) (t : Target) : Nat := (s.au[t].record.map (·.count)).getD 0

/-- Target Status of target t (R13, R157). -/
def State.targetStatus (s : State) (t : Target) : Word :=
  numberAt (s.admission t).code 0 ||| flagAt s.dbe.recovery[t].isSome 2
    ||| numberAt (s.heldAttentionCount t) 4
    ||| ((s.admission t).fault?.map (·.statusWord)).getD 0

/-- Fault Detail of target t (R13). -/
def State.faultDetail (s : State) (t : Target) : Word :=
  ((s.admission t).fault?.map (·.detailWord)).getD 0

/-! ## The register map -/

/-- The slot a register offset from 40H to 7FH belongs to. -/
def slotOfOffset (offset : BitVec 8) : SlotNo := (offset.extractLsb' 4 2).toFin

/-- The target a register offset from 80H to FFH belongs to. -/
def targetOfOffset (offset : BitVec 8) : Target := (offset.extractLsb' 4 3).toFin

/-- The value a word read at an offset of the register window returns: the register's value; zero at
a write-only register, an unused word, and an offset that names no register (R87, section 12). -/
def State.readRegister (s : State) (offset : BitVec 8) : Word :=
  if offset.toNat % 4 ≠ 0 then 0
  else if offset = 0x00#8 then Config.identification
  else if offset = 0x04#8 then s.bridgeStatus
  else if offset = 0x08#8 then s.bc.config.word
  else if offset = 0x0C#8 then s.bc.status.word
  else if offset = 0x10#8 then s.wq.word
  else if offset = 0x14#8 then atBit s.wq.lastFenceRetired 0
  else if offset = 0x18#8 then s.nq.headA
  else if offset = 0x1C#8 then s.nq.headB
  else if offset = 0x20#8 then s.nq.headC
  else if offset = 0x24#8 then 0
  else if offset = 0x28#8 then s.nq.select
  else if offset = 0x2C#8 then s.nq.summary
  else if offset.toNat < 0x40 then (s.wu[((offset.extractLsb' 2 2).toFin : Fin 4)]).word
  else if offset.toNat < 0x80 then
    if offset.toNat % 16 = 4 then s.fs[slotOfOffset offset].word else 0
  else match offset.toNat % 16 with
    | 0 => s.targets[targetOfOffset offset].staged.windowWord
    | 4 => s.targets[targetOfOffset offset].staged.timingWord
    | 8 => s.targetStatus (targetOfOffset offset)
    | _ => s.faultDetail (targetOfOffset offset)

end Sys2Proof.Machine
end

