-- ==== Sys2Proof/Machine/Dispatch.lean ====
section
/-! DEFINITION. The meaning of every command of the table, one arm per constructor. -/

namespace Sys2Proof.Machine

def exec (i : Instr) (s : State) : Host.Outcome State Fault Refusal :=
  match i with
  | .apertureWrite offset size data => Sys2Proof.Machine.execApertureWrite offset size data s
  | .heldWriteRecheck => Sys2Proof.Machine.execHeldWriteRecheck s
  | .heldWriteHoldExpired => Sys2Proof.Machine.execHeldWriteHoldExpired s
  | .stretchedCycleTaken => Sys2Proof.Machine.execStretchedCycleTaken s
  | .apertureRead offset size => Sys2Proof.Machine.execApertureRead offset size s
  | .holdExpiryWaiting => Sys2Proof.Machine.execHoldExpiryWaiting s
  | .holdExpiryIssued => Sys2Proof.Machine.execHoldExpiryIssued s
  | .registerWindowBusError write offset size => Sys2Proof.Machine.execRegisterWindowBusError write offset size s
  | .registerWrite offset value => Sys2Proof.Machine.execRegisterWrite offset value s
  | .window t value => Sys2Proof.Machine.execWindow t value s
  | .timing t value => Sys2Proof.Machine.execTiming t value s
  | .watchComparator n value => Sys2Proof.Machine.execWatchComparator n value s
  | .noticeSelect value => Sys2Proof.Machine.execNoticeSelect value s
  | .eventSummary value => Sys2Proof.Machine.execEventSummary value s
  | .bridgeConfiguration value => Sys2Proof.Machine.execBridgeConfiguration value s
  | .noticePop value => Sys2Proof.Machine.execNoticePop value s
  | .request k value => Sys2Proof.Machine.execRequest k value s
  | .release k value => Sys2Proof.Machine.execRelease k value s
  | .enable t => Sys2Proof.Machine.execEnable t s
  | .disable t => Sys2Proof.Machine.execDisable t s
  | .fence notify => Sys2Proof.Machine.execFence notify s
  | .resume t => Sys2Proof.Machine.execResume t s
  | .skip t => Sys2Proof.Machine.execSkip t s
  | .discard t => Sys2Proof.Machine.execDiscard t s
  | .quiesce => Sys2Proof.Machine.execQuiesce s
  | .openBridge => Sys2Proof.Machine.execOpenBridge s
  | .clear => Sys2Proof.Machine.execClear s
  | .unknownCommand code => Sys2Proof.Machine.execUnknownCommand code s
  | .issueGrant => Sys2Proof.Machine.execIssueGrant s
  | .setupComplete => Sys2Proof.Machine.execSetupComplete s
  | .strobeTimeReached lines => Sys2Proof.Machine.execStrobeTimeReached lines s
  | .readySampledHigh count lines => Sys2Proof.Machine.execReadySampledHigh count lines s
  | .accessTimeout => Sys2Proof.Machine.execAccessTimeout s
  | .accessEnd => Sys2Proof.Machine.execAccessEnd s
  | .recoveryTimerExpires t => Sys2Proof.Machine.execRecoveryTimerExpires t s
  | .turnaroundTimerExpires => Sys2Proof.Machine.execTurnaroundTimerExpires s
  | .fenceRetired => Sys2Proof.Machine.execFenceRetired s
  | .attentionEvent t => Sys2Proof.Machine.execAttentionEvent t s
  | .attentionRecordReleased t => Sys2Proof.Machine.execAttentionRecordReleased t s
  | .quiesced => Sys2Proof.Machine.execQuiesced s
  | .clearTakesEffect => Sys2Proof.Machine.execClearTakesEffect s
  | .powerOnReset levels => Sys2Proof.Machine.execPowerOnReset levels s
  | .attentionInputEdge t => Sys2Proof.Machine.execAttentionInputEdge t s

end Sys2Proof.Machine
end

