-- ==== Sys2Proof/Safety.lean ====
section
/-! DEFINITION. What the manual guarantees of every state: the invariants the statements speak of,
and the settled states, in which nothing is due. -/

namespace Sys2Proof

open Machine

/-! ## Notice Queue -/

/-- The records of a well-formed queue, oldest first, with the sequence number that follows the
youngest: the numbers run on by one to `next` (R134), and an Overflow record, its count not 0, is
the youngest (R137). -/
def recordsWf (next : BitVec 8) : List NoticeRecord → Prop
  | [] => True
  | r :: rest =>
    r.sequence = next - BitVec.ofNat 8 (rest.length + 1)
      ∧ (∀ count, r.body = .overflow count → rest = [] ∧ count ≠ 0)
      ∧ recordsWf next rest

/-- The Notice Queue keeps its form: at most sixteen records, the sixteenth an Overflow record, at
most one and the youngest; successive sequence numbers; no bit of Notice Select or Event Summary set
that names no kind (R134, R137, R153, R158). -/
def NoticeQueueWf (q : NoticeQueue) : Prop :=
  recordsWf q.sequence q.records
    ∧ q.records.length ≤ (if q.overflowCount?.isSome then 16 else 15)
    ∧ q.select &&& ~~~selectMask = 0
    ∧ q.summary &&& ~~~summaryMask = 0

/-! ## Write Queue -/

/-- The write queue holds at most eight entries, with distinct posting numbers, none of them 0, and
Next PN is not 0 (R19, R20). -/
def WriteQueueWf (q : WriteQueue) : Prop :=
  q.entries.length ≤ 8
    ∧ (q.entries.map (·.pn)).Nodup
    ∧ (∀ e ∈ q.entries, e.pn ≠ 0)
    ∧ q.nextPn ≠ 0

/-! ## Target Table -/

/-- A live window is aligned to its size, and its strobe and timeout are not 0 (R4). -/
def liveConfigWf (c : TargetConfig) : Prop :=
  c.base.toNat % c.size.bytes = 0 ∧ c.strobe ≠ 0 ∧ c.timeout ≠ 0

/-- Every enabled target's live configuration passed its checks, and no two enabled targets' live
windows have an offset in common (R4, section 1.2). -/
def WindowsWf (s : State) : Prop :=
  (∀ t : Target, (s.admission t).enabled → liveConfigWf (s.live t))
    ∧ ∀ t u : Target, t ≠ u → (s.admission t).enabled → (s.admission u).enabled →
        windowsMeet (s.live t) (s.live u) = false

/-! ## Device bus -/

/-- While an access is in flight its target is Open, its target's recovery timer is stopped, and so
is the read-turnaround timer (R71, R72, R102). -/
def AccessInFlightWf (s : State) : Prop :=
  ∀ a, s.dbe.access = some a →
    s.admission a.target = .opened ∧ s.dbe.recovery[a.target] = none ∧ s.dbe.turnaround = none

/-! ## Watch Unit -/

/-- An armed comparator has matches still to be seen, no more than its programmed count (R123,
R124, R127). -/
def ComparatorsWf (s : State) : Prop :=
  ∀ n : ComparatorNo, s.wu[n].armed → s.wu[n].remaining ≠ 0 ∧ s.wu[n].remaining ≤ s.wu[n].count

/-! ## Host Interface -/

/-- The hold timer runs exactly while a held host cycle is Open; the cycle of a Waiting held read is
Open; a re-check is due only of a held write (R29, R30, R78, R81, R82). -/
def HoldWf (s : State) : Prop :=
  (match s.hif.held with
    | none => s.hif.holdTimer = none
    | some (.write _) => s.hif.holdTimer ≠ none
    | some (.read r) => (s.hif.holdTimer ≠ none ↔ r.cycle = .opened)
        ∧ (r.phase = .waiting → r.cycle = .opened))
    ∧ (s.hif.recheckDue → s.heldWrite?.isSome)

/-! ## Order Unit -/

/-- Every member of a wait-set is a request present and older than its owner; `older` holds the
requests before these (R43, R44). -/
def waitsForOlder (older : List RequestId) : List PresentRequest → Prop
  | [] => True
  | r :: rest => (∀ m ∈ r.waitSet, m ∈ older) ∧ waitsForOlder (older ++ [r.id]) rest

/-- Of two present requests, the younger has the older in its wait-set exactly where R43 has it
wait. -/
def waitSetsExact (s : State) : Prop :=
  s.ou.Pairwise fun y x => y.id ∈ x.waitSet ↔ s.waitsFor x.target y.target

/-- What the OU keeps of a queue entry. -/
def entryRequest : QueueEntry → RequestId × Option Target
  | .write e => (.entry e.pn, some e.target)
  | .fence f => (.entry f.pn, none)

/-- A request of the write queue. -/
def Machine.RequestId.isEntry : RequestId → Bool
  | .entry _ => true
  | .heldRead | .fetch _ => false

/-- The present set is what the owners hold: the queue's entries in their order of age, the held
read, and the fetches in Waiting, Issued and Cancelling, each once and with its target (R40 to
R42). -/
def presentMatchesOwners (s : State) : Prop :=
  (s.ou.map (·.id)).Nodup
    ∧ ((s.ou.filter fun r => r.id.isEntry).map fun r => (r.id, r.target))
        = s.wq.entries.map entryRequest
    ∧ (∀ r ∈ s.ou, r.id = .heldRead → ∃ h, s.heldRead? = some h ∧ r.target = some h.target)
    ∧ (s.heldRead?.isSome → ∃ r ∈ s.ou, r.id = .heldRead)
    ∧ (∀ r ∈ s.ou, ∀ k, r.id = .fetch k →
        s.fs[k].state.holdsRequest ∧ r.target = some s.fs[k].target)
    ∧ ∀ k : SlotNo, s.fs[k].state.holdsRequest → ∃ r ∈ s.ou, r.id = .fetch k

/-- Work is held for enabled targets only: every present request's target, and a held write's, is
enabled (R3, R6). -/
def workIsForEnabled (s : State) : Prop :=
  (∀ r ∈ s.ou, ∀ t, r.target = some t → (s.admission t).enabled)
    ∧ ∀ w, s.heldWrite? = some w → (s.admission w.target).enabled

/-- The Order Unit's invariant: the present set is what the owners hold, for enabled targets, and
every wait-set is what R43 gave it, less what has departed. -/
def OrderWf (s : State) : Prop :=
  WriteQueueWf s.wq ∧ presentMatchesOwners s ∧ workIsForEnabled s ∧ waitsForOlder [] s.ou
    ∧ waitSetsExact s

/-! ## Owners of the access, of a fault record and of an attention record -/

/-- The owner of a request shows it Issued; a fetch in Cancelling counts as Issued (R49, R98). -/
def shownIssued (s : State) (id : RequestId) : Prop :=
  match id with
  | .entry pn => ∃ e, s.wq.find pn = some e ∧ e.progress = .issued
  | .heldRead => ∃ r, s.heldRead? = some r ∧ r.phase = .issued
  | .fetch k => s.fs[k].state = .issued ∨ s.fs[k].state = .cancelling

/-- The access in flight belongs to a present request of its target, which its owner shows Issued, and
has its result exactly in its hold phase; and outside Clearing no other request is shown Issued
(R52, R60, R64 to R67, R75). -/
def accessHasOwner (s : State) : Prop :=
  (∀ a, s.dbe.access = some a →
      (∃ r ∈ s.ou, r.id = a.request ∧ r.target = some a.target) ∧ shownIssued s a.request
        ∧ (a.result ≠ none ↔ a.phase = .hold))
    ∧ ∀ id, shownIssued s id →
        s.bc.state = .clearing ∨ ∃ a, s.dbe.access = some a ∧ a.request = id

/-- A target Halted by Write Timeout has the entry its record names present, of that target and
failed; and a failed entry is the one its target's fault record names (R104, R105). -/
def failedMatchesFaults (s : State) : Prop :=
  (∀ t pn offset lanes data, s.admission t = .halted (.writeTimeout pn offset lanes data) →
      ∃ e, s.wq.find pn = some e ∧ e.target = t ∧ e.failed = true)
    ∧ ∀ e, .write e ∈ s.wq.entries → e.failed = true →
        ∃ offset lanes data, s.admission e.target = .halted (.writeTimeout e.pn offset lanes data)

/-- What is on the device bus, and what failed there, is owned by work that is present. -/
def OwnersWf (s : State) : Prop :=
  OrderWf s ∧ AccessInFlightWf s ∧ accessHasOwner s ∧ failedMatchesFaults s

/-- A held attention record counts 1 to 15 events of an enabled target, and the members of its
wait-set are write entries of that target, present (R118 to R121). -/
def AttentionRecordsWf (s : State) : Prop :=
  ∀ (t : Target) r, s.au[t].record = some r →
    1 ≤ r.count ∧ r.count ≤ 15 ∧ (s.admission t).enabled
      ∧ ∀ pn ∈ r.waitSet, ∃ e, .write e ∈ s.wq.entries ∧ e.pn = pn ∧ e.target = t

/-! ## Settled states -/

/-- Nothing is due: no consequence of a departure, no stretched cycle the HIF can take, no taking
effect of CLEAR, and no grant. -/
abbrev Settled (s : State) : Prop := s.dues = []

end Sys2Proof
end

