-- ==== Sys2Proof/Certificates/Slice0/Obligations.lean ====
section
/-! DEFINITION. The statements about the PB-46 for the provers. `arrive s` is the state an arrival
meets: what was still due has happened and no host cycle has ended in this step yet; where nothing is
due it is `newStep s` with nothing freed (Obligations.ArrivalsFindNothingDue). `arriveAtWrite`,
`arriveAtExpiry`, `arriveAtRelease`, `arriveAtDiscard` and `arriveAtClear` give the state met by the
arrivals that a grant, still due, may come after (R28, R75, R81, R99, R113). The field `freed`, in
which a next state shows that its arrival was one R53 lists, is the model's own (assumption 6). -/

open Sys2Proof Sys2Proof.Machine

namespace Sys2Proof

/-! ## Words of the statements -/

/-- The Host Interface of `u` after one more host cycle has ended. -/
def ending (r : HostReply) (u : State) : HostInterface :=
  { u.hif with replies := u.hif.replies ++ [r] }

/-- The Host Interface of `u` after the register-window write being taken has ended with ready. -/
def registerEnds (u : State) : HostInterface := ending (.registerWindow (.ready 0)) u

/-- `u` after a command has been settled: Command Status holds its code, result and detail, and its
host cycle has ended with ready (R143, R144). -/
def answered (code : BitVec 8) (result : CommandResult) (detail : Detail) (u : State) : State :=
  { u with bc := { u.bc with status := ⟨code, result, detail⟩ }, hif := registerEnds u }

/-- The codes of the commands, and the command that carries each (R155). -/
def commandCode : Instr → Option (BitVec 8)
  | .enable _ => some 0x01#8
  | .disable _ => some 0x02#8
  | .fence _ => some 0x03#8
  | .resume _ => some 0x04#8
  | .skip _ => some 0x05#8
  | .discard _ => some 0x06#8
  | .quiesce => some 0x07#8
  | .openBridge => some 0x08#8
  | .clear => some 0x09#8
  | .unknownCommand code => some code
  | _ => none

/-- The state a command finds: DISCARD and CLEAR may come before a grant that is due (R75, R113,
assumption 6). -/
def metBy (c : Instr) (s : State) : State :=
  match c with
  | .discard t => arriveAtDiscard t s
  | .clear => arriveAtClear s
  | _ => arrive s

/-- The bytes of `data` in the named lanes, zero in the others (R17, R60). -/
def bytesIn (lanes : Lanes) (data : LaneWord) : LaneWord :=
  match lanes with
  | .low => data &&& 0x00FF#16
  | .high => data &&& 0xFF00#16
  | .both => data

/-- The offsets of the register window that take no write (R87, section 12.4). -/
def takesNoWrite (offset : BitVec 8) : Prop :=
  offset.toNat % 4 ≠ 0
    ∨ offset ∈ [0x00#8, 0x04#8, 0x10#8, 0x14#8, 0x18#8, 0x1C#8, 0x20#8]
    ∨ (0x40 ≤ offset.toNat ∧ offset.toNat < 0x80
        ∧ (offset.toNat % 16 = 4 ∨ offset.toNat % 16 = 12))
    ∨ (0x80 ≤ offset.toNat ∧ (offset.toNat % 16 = 8 ∨ offset.toNat % 16 = 12))

/-- The queue with the write entry of this PN changed by `f`. -/
def withChanged (pn : PN) (f : WriteEntry → WriteEntry) (q : WriteQueue) : WriteQueue :=
  { q with entries := q.entries.map fun
      | .write e => if e.pn = pn then .write (f e) else .write e
      | .fence g => .fence g }

/-- The arbiter may grant: no access in flight, the read-turnaround timer stopped, the bridge not
Clearing (R51). -/
def busFree (u : State) : Prop :=
  u.dbe.access = none ∧ u.dbe.turnaround = none ∧ u.bc.state ≠ .clearing

/-- Every consequence of an arrival has been taken: no fence that can retire, no attention record that
can be released, no held write to be re-checked, no drained Quiescing bridge, no CLEAR to take effect,
and no cycle stretched behind a free HIF (R30, R34, R56, R120, R147, R151). -/
def consequencesTaken (u : State) : Prop :=
  (u.bc.state ≠ .clearing → ∀ f, QueueEntry.fence f ∈ u.wq.entries →
      ∀ r, u.requestOf (.entry f.pn) = some r → r.waitSet ≠ [])
    ∧ (∀ (t : Target) r, u.au[t].record = some r → r.waitSet ≠ [])
    ∧ (u.hif.recheckDue = true → u.heldWrite? = none)
    ∧ ¬ (u.bc.state = .quiescing ∧ u.wq.entries = [] ∧ u.heldRead? = none ∧ u.dbe.access = none
      ∧ ∀ k : SlotNo, u.fs[k].state = .free ∨ u.fs[k].state = .done ∨ u.fs[k].state = .failed)
    ∧ (u.bc.state = .clearing → u.dbe.access ≠ none)
    ∧ (u.hif.held = none → u.hif.stretched = [])

/-- The first request is of a higher rank at the issue arbiter than the second: a held read than any
other, a fetch than a write entry (R51). -/
def outranks : RequestId → RequestId → Prop
  | .heldRead, .fetch _ | .heldRead, .entry _ | .fetch _, .entry _ => True
  | .heldRead, .heldRead | .fetch _, .heldRead | .fetch _, .fetch _ | .entry _, _ => False

/-- The request the issue arbiter chooses of the present ones: an eligible one which no eligible one
outranks and, of those, the one that arrived first (R51). -/
def chosen (u : State) (r : PresentRequest) : Prop :=
  ∃ older younger, u.ou = older ++ r :: younger ∧ u.eligible r = true
    ∧ (∀ y ∈ younger, u.eligible y = true → ¬ outranks y.id r.id)
    ∧ ∀ y ∈ older, u.eligible y = true → outranks r.id y.id

/-- The HIF is free to take an aperture cycle at once. -/
def hifFree (u : State) : Prop := u.hif.held = none ∧ u.hif.stretched = []

/-- The queue has room: fewer than eight entries, none holding Next PN (R20). -/
def hasRoom (q : WriteQueue) : Prop :=
  q.entries.length < 8 ∧ ∀ e ∈ q.entries, e.pn ≠ q.nextPn

/-- The seven conditions under which an admitted write to `t` is merged into the tail write entry
`e` (R26). -/
def mayMerge (u : State) (e : WriteEntry) (t : Target) (offset : Offset) : Prop :=
  (u.live t).coalesce = true ∧ e.target = t ∧ e.progress = .queued ∧ e.begun = false
    ∧ e.failed = false ∧ e.offset &&& 0xFFFE#16 = offset &&& 0xFFFE#16
    ∧ (∀ r ∈ u.ou, ∀ k, r.id = .fetch k → .entry e.pn ∉ r.waitSet)
    ∧ ∀ x : Target, ∀ r, u.au[x].record = some r → e.pn ∉ r.waitSet

/-- The queue after one more entry, which takes Next PN (R19). -/
def withEntry (q : WriteQueue) (e : QueueEntry) : WriteQueue :=
  { q with entries := q.entries ++ [e]
           nextPn := if q.nextPn = 0xFFFF#16 then 1 else q.nextPn + 1 }

/-- `u` with a new write entry at the tail, its request present behind all others (R17, R24). -/
def withWriteEntered (t : Target) (offset : Offset) (lanes : Lanes) (data : LaneWord) (u : State) :
    State :=
  { u with
    wq := withEntry u.wq (.write { pn := u.wq.nextPn, target := t, offset := offset, lanes := lanes
                                   data := data, progress := .queued, begun := false
                                   failed := false })
    ou := u.ou ++ [⟨.entry u.wq.nextPn, some t, u.waitSetOf (some t)⟩] }

/-- The hold timer's limit in DP for a hold that begins now (R29). -/
def holdLimitDP (u : State) : Nat :=
  if u.bc.config.holdLimit = 0 then 16 else u.bc.config.holdLimit.toNat * 16

/-- No comparator fires on the access. -/
def noneFires (u : State) (a : Access) : Prop := ∀ n : ComparatorNo, u.wu[n].fires a = false

/-- The HIF holds no write of `t` and no Waiting read of `t`: nothing a halt of `t` ends (R32, R84). -/
def holdsNoneOf (u : State) (t : Target) : Prop :=
  (∀ w, u.heldWrite? = some w → w.target ≠ t)
    ∧ ∀ r, u.heldRead? = some r → r.target ≠ t ∨ r.phase = .issued

/-- No departure of a request other than a queue entry can make anything due: no fence waits and the
bridge is not Quiescing. -/
def nothingWaitsForDrain (u : State) : Prop :=
  (∀ f, QueueEntry.fence f ∉ u.wq.entries) ∧ u.bc.state ≠ .quiescing

/-- An access stands at the end of its hold phase, outside Clearing, with this result. -/
def endsWith (u : State) (a : Access) (result : AccessResult) : Prop :=
  u.dbe.access = some a ∧ a.phase = .hold ∧ a.result = some result ∧ u.bc.state ≠ .clearing

/-! The codes of section 12.4 and of R155. -/

/-- Lanes: 1 Low, 2 High, 3 Both. -/
def lanesNumber : Lanes → Nat
  | .low => 1
  | .high => 2
  | .both => 3

/-- The cause of a notice. -/
def causeNumber : NoticeCause → Nat
  | .timeout => 1
  | .halted => 2
  | .holdExpired => 3
  | .quiescing => 4
  | .decodeMiss => 5
  | .noWindow => 6
  | .width => 7

/-- The access kind of a notice. -/
def accessKindNumber : AccessClass → Nat
  | .write => 1
  | .read => 2
  | .fetch => 3

/-- The result of a fetch slot. -/
def slotResultNumber : SlotResult → Nat
  | .none => 0
  | .done => 1
  | .timeout => 2
  | .halted => 3
  | .decodeMiss => 4
  | .refused => 5

/-- The result of a command. -/
def commandResultNumber : CommandResult → Nat
  | .none => 0
  | .accepted => 1
  | .refusedBusy => 2
  | .refusedState => 3
  | .refusedFull => 4
  | .refusedArgument => 5
  | .refusedClearing => 6

/-- The detail code and the detail number of a command. -/
def detailNumbers : Detail → Nat × Nat
  | .none => (0, 0)
  | .number n => (1, n.toNat)
  | .opened => (2, 0)
  | .halted => (3, 0)
  | .disabled => (4, 0)
  | .running => (5, 0)
  | .quiescing => (6, 0)
  | .quiesced => (7, 0)
  | .alignment => (8, 0)
  | .strobe => (9, 0)
  | .timeout => (10, 0)
  | .overlap t => (11, t.val)
  | .inFlight => (12, 0)
  | .heldCycle => (13, 0)
  | .writeEntry => (14, 0)
  | .fetch => (15, 0)
  | .attentionRecord => (16, 0)
  | .readTimeout => (17, 0)
  | .fetchTimeout => (18, 0)
  | .watch => (19, 0)
  | .unknownCommand => (20, 0)

end Sys2Proof

/-! ## The part as a machine -/

/-- A step takes the command at the front of the queue, with the rest of the queue left waiting; with
none waiting it changes nothing (the idling is the model's choice, assumption 2). -/
def Obligations.StepTakesFrontCommand : Prop :=
  (∀ (s : State) (c : Instr) (rest : List Instr), s.pending = c :: rest →
      step s = exec c { s with pending := rest })
    ∧ ∀ s : State, s.pending = [] → step s = .next s

/-- What is due happens before the next arrival: an arrival meets a state in which no consequence of
the last is left to take, no cycle is stretched behind a free HIF, and the arbiter has no grant to make
(R30, R34, R51, R53, R56, R120, R147, R151). Where an arrival may come before a grant, nothing else is
left. A grant due to a request on its own arrival comes before every other arrival (R53). A grant that
another arrival brought about may come after the expiry of its held read (R81), the Release of its
fetch (R99), a DISCARD of its target (R113), an aperture write merged into its entry (R28), and,
brought about by an access end, after CLEAR (R75, R150). That what is due comes before the next
arrival of the queue but for these is the model's reading (assumption 6, DEDUCED). -/
def Obligations.ArrivalsFindNothingDue : Prop :=
  (∀ s : State, let u := arrive s
      Settled u ∧ consequencesTaken u ∧ u.freed = none
        ∧ (busFree u → ∀ r ∈ u.ou, u.eligible r = false))
    ∧ (∀ (passed : State → Bool) (s : State), ∃ t, arrivePassing passed s = { t with freed := none }
        ∧ consequencesTaken t
        ∧ (busFree t → ∀ r ∈ t.ou, t.eligible r = true → passed t = true ∧ t.freed ≠ none))
    ∧ (∀ s : State, Settled s →
        let u : State := { s with hif := { s.hif with replies := [] }, freed := none }
        arrive s = u ∧ ∀ passed, arrivePassing passed s = u)
    ∧ ∀ (s : State) (r : PresentRequest),
      let first : State := { s with hif := { s.hif with replies := [] }, freed := none }
      s.departureDues = [] → s.hif.stretched = [] ∨ s.hif.held ≠ none → busFree s → chosen s r →
        exec .issueGrant s = .next (arrive s)
        ∧ (s.freed = none → ∀ passed, arrivePassing passed s = arrive s)
        ∧ (s.freed = some .accessEnd → arriveAtClear s = first)
        ∧ (s.freed = some .other → arriveAtClear s = arrive s)
        ∧ (s.freed ≠ none →
          (r.id = .heldRead → arriveAtExpiry s = first)
          ∧ (r.id ≠ .heldRead → arriveAtExpiry s = arrive s)
          ∧ (∀ k, (r.id = .fetch k → arriveAtRelease k s = first)
              ∧ (r.id ≠ .fetch k → arriveAtRelease k s = arrive s))
          ∧ (∀ t, (r.target = some t → arriveAtDiscard t s = first)
              ∧ (r.target ≠ some t → arriveAtDiscard t s = arrive s))
          ∧ ∀ offset size data t lanes older e, hifFree s → s.bc.state = .running →
            s.decode offset size = .hit t lanes → s.admission t = .opened →
            s.wq.entries = older ++ [.write e] →
              (mayMerge s e t offset → r.id = .entry e.pn → arriveAtWrite offset size data s = first)
              ∧ (¬ (mayMerge s e t offset ∧ r.id = .entry e.pn) →
                  arriveAtWrite offset size data s = arrive s))

/-- Power-on reset, in any state: every block takes its power-on values, field by field, and the kept
level of each attention input is that of the first sample; and what the register window, the interrupt
line and the device bus then show (R14, R101, R132, R152, section 12.4). That an offset which is no
multiple of 4 reads zero is the model's reading (assumption 8); that the sample comes in the same step
and the waiting commands stay is its choice (assumption 14), as are the level Low and the counter 0
of `State.reset` (assumptions 1, 3) and its empty mark `freed` (assumption 6), which is reached with every level Low. -/
def Obligations.PowerOnReset : Prop :=
  (∀ (s : State) (levels : BitVec 8), ∃ t, exec (.powerOnReset levels) s = .next t
    ∧ (let c : TargetConfig :=
        { base := 0, size := .s256, width := .byte, ordering := .relaxed, coalesce := false
          readySense := false, setup := 1, strobe := 4, hold := 1, recovery := 0, timeout := 16
          attentionMode := .off, attentionOrdering := false }
      ∀ x : Target, t.targets[x] = ⟨c, c, .disabled⟩)
    ∧ t.wq = { entries := [], nextPn := 1, lastFenceRetired := 0 } ∧ t.ou = []
    ∧ t.hif = { held := none, holdTimer := none, recheckDue := false, stretched := [], replies := [] }
    ∧ t.bc = { state := .running, status := ⟨0, .none, .none⟩
               config := { holdLimit := 16, turnaround := 1, interruptEnable := false } }
    ∧ (∀ k : SlotNo, t.fs[k] =
        { state := .free, offset := 0, lanes := .low, notify := false, target := 0
          lowHalfDone := false, data := 0, result := .none, refused := false })
    ∧ t.dbe.access = none ∧ (∀ x : Target, t.dbe.recovery[x] = none) ∧ t.dbe.turnaround = none
    ∧ t.dbe.addressLines = 0
    ∧ (∀ x : Target, t.au[x] = { high := levels.getLsbD x.val, record := none })
    ∧ (∀ n : ComparatorNo, t.wu[n] =
        { offset := 0, size := .one, kind := .any, count := 1, remaining := 0, action := .notice
          repeats := false, armed := false })
    ∧ t.nq = { records := [], sequence := 0, select := 0, summary := 0 }
    ∧ t.pending = s.pending ∧ t.choices = s.choices ∧ t.freed = none
    ∧ (∀ offset : BitVec 8, t.readRegister offset =
      if offset = 0x00#8 then 0x02460001#32
      else if offset = 0x08#8 then 0x00000110#32
      else if offset = 0x10#8 then 0x00010001#32
      else if offset = 0x30#8 ∨ offset = 0x34#8 ∨ offset = 0x38#8 ∨ offset = 0x3C#8 then 0x00100000#32
      else if 0x80 ≤ offset.toNat ∧ offset.toNat % 16 = 4 then 0x10000141#32
      else 0)
    ∧ t.interruptLine = false
    ∧ t.busPins = { select := none, address := 0, laneLow := false, laneHigh := false
                    readStrobe := false, writeStrobe := false, dataLow := none, dataHigh := none })
    ∧ exec (.powerOnReset 0) State.reset = .next State.reset

/-- An event of the table whose record is absent, or whose record is present but whose condition does
not hold (another phase, ready sense the other way, a strobe count outside its range, a stopped
timer), changes nothing (R31, R63 to R67, R81, R82); a row that names such an event is the model's
choice of form (assumption 4). -/
def Obligations.EventsWithoutTheirCause : Prop :=
  ∀ s : State, Settled s →
    let same : State := { s with hif := { s.hif with replies := [] } }
    let u : State := { same with freed := none }
    exec .heldWriteRecheck s = .next same ∧ exec .fenceRetired s = .next same
      ∧ exec .quiesced s = .next same ∧ exec .clearTakesEffect s = .next same
      ∧ (∀ t, exec (.attentionRecordReleased t) s = .next same)
      ∧ exec .stretchedCycleTaken s = .next same ∧ exec .issueGrant s = .next same
      ∧ (s.heldWrite? = none ∨ s.hif.holdTimer = none → exec .heldWriteHoldExpired s = .next u)
      ∧ ((∀ r, s.heldRead? = some r → r.phase = .issued) ∨ s.hif.holdTimer = none →
          exec .holdExpiryWaiting s = .next u)
      ∧ ((∀ r, s.heldRead? = some r → r.phase = .waiting ∨ r.cycle = .ended)
          ∨ s.hif.holdTimer = none → exec .holdExpiryIssued s = .next u)
      ∧ ((∀ a, s.dbe.access = some a → a.phase ≠ .setup) → exec .setupComplete s = .next u)
      ∧ ((∀ a, s.dbe.access = some a → a.phase ≠ .strobe ∨ a.readySense = true) →
          ∀ lines, exec (.strobeTimeReached lines) s = .next u)
      ∧ (∀ count lines, (∀ a, s.dbe.access = some a → a.phase ≠ .strobe ∨ a.readySense = false
            ∨ count < a.strobe.toNat ∨ a.timeout.toNat * 64 < count) →
          exec (.readySampledHigh count lines) s = .next u)
      ∧ ((∀ a, s.dbe.access = some a → a.phase ≠ .strobe ∨ a.readySense = false) →
          exec .accessTimeout s = .next u)
      ∧ ((∀ a, s.dbe.access = some a → a.phase ≠ .hold) → exec .accessEnd s = .next u)

/-! ## The register window -/

/-- The Identification register reads 02460001H in every state, and a write to it is discarded
(R154). -/
def Obligations.IdentificationIsConstant : Prop :=
  (∀ s : State, s.readRegister 0x00#8 = 0x02460001#32)
    ∧ ∀ value : Word, commandOfRegisterWrite 0x00#8 value = .registerWrite 0x00#8 value
      ∧ ∀ s : State, exec (.registerWrite 0x00#8 value) s =
          .next { arrive s with hif := registerEnds (arrive s) }

/-- The size of a host cycle by its byte enables and the command it carries (R159), and the command of
each word write to the register window, at every offset: the map of chapter 12, with the command codes
and operands of R155 and the fields of a Request (R90, R156); an offset that takes no write discards
it (R87). That a word read of the register window is no command is the model's choice of form
(assumption 7), and that an offset which is no multiple of 4 takes no write its reading
(assumption 8). -/
def Obligations.HostCyclesSpellCommands : Prop :=
  (∀ address enables data,
      let size : CycleSize := match (enables : BitVec 4) with
        | 0b0001#4 | 0b0010#4 | 0b0100#4 | 0b1000#4 => .byte
        | 0b0011#4 | 0b0101#4 | 0b0110#4 | 0b1001#4 | 0b1010#4 | 0b1100#4 => .half
        | 0b1111#4 => .word
        | _ => .unsized
      commandOfHostCycle true true address enables data = some (.apertureWrite address size data)
        ∧ commandOfHostCycle true false address enables data = some (.apertureRead address size)
        ∧ (size ≠ .word → ∀ write, commandOfHostCycle false write address enables data =
            some (.registerWindowBusError write (address.extractLsb' 0 8) size))
        ∧ (size = .word → commandOfHostCycle false true address enables data =
              some (commandOfRegisterWrite (address.extractLsb' 0 8) data)
            ∧ commandOfHostCycle false false address enables data = none))
    ∧ (∀ value : Word, ∀ t : Target, value.extractLsb' 8 3 = BitVec.ofNat 3 t.val →
        (value.extractLsb' 0 8 = 0x01#8 → commandOfRegisterWrite 0x0C#8 value = .enable t)
        ∧ (value.extractLsb' 0 8 = 0x02#8 → commandOfRegisterWrite 0x0C#8 value = .disable t)
        ∧ (value.extractLsb' 0 8 = 0x03#8 →
            commandOfRegisterWrite 0x0C#8 value = .fence (t.val % 2 == 1))
        ∧ (value.extractLsb' 0 8 = 0x04#8 → commandOfRegisterWrite 0x0C#8 value = .resume t)
        ∧ (value.extractLsb' 0 8 = 0x05#8 → commandOfRegisterWrite 0x0C#8 value = .skip t)
        ∧ (value.extractLsb' 0 8 = 0x06#8 → commandOfRegisterWrite 0x0C#8 value = .discard t)
        ∧ (value.extractLsb' 0 8 = 0x07#8 → commandOfRegisterWrite 0x0C#8 value = .quiesce)
        ∧ (value.extractLsb' 0 8 = 0x08#8 → commandOfRegisterWrite 0x0C#8 value = .openBridge)
        ∧ (value.extractLsb' 0 8 = 0x09#8 → commandOfRegisterWrite 0x0C#8 value = .clear)
        ∧ (value.extractLsb' 0 8 = 0x00#8 ∨ 0x0A#8 ≤ value.extractLsb' 0 8 →
            commandOfRegisterWrite 0x0C#8 value = .unknownCommand (value.extractLsb' 0 8)))
    ∧ (∀ value : Word,
        commandOfRegisterWrite 0x08#8 value = .bridgeConfiguration value
        ∧ commandOfRegisterWrite 0x24#8 value = .noticePop value
        ∧ commandOfRegisterWrite 0x28#8 value = .noticeSelect value
        ∧ commandOfRegisterWrite 0x2C#8 value = .eventSummary value
        ∧ (∀ n : ComparatorNo, commandOfRegisterWrite (BitVec.ofNat 8 (0x30 + 4 * n.val)) value =
            .watchComparator n value)
        ∧ (∀ k : SlotNo,
            commandOfRegisterWrite (BitVec.ofNat 8 (0x40 + 16 * k.val)) value = .request k value
            ∧ commandOfRegisterWrite (BitVec.ofNat 8 (0x48 + 16 * k.val)) value = .release k value)
        ∧ ∀ t : Target,
            commandOfRegisterWrite (BitVec.ofNat 8 (0x80 + 16 * t.val)) value = .window t value
            ∧ commandOfRegisterWrite (BitVec.ofNat 8 (0x84 + 16 * t.val)) value = .timing t value)
    ∧ (∀ (offset : BitVec 8) (value : Word),
        takesNoWrite offset → commandOfRegisterWrite offset value = .registerWrite offset value)
    ∧ ∀ v : Word, requestNotify v = v.getLsbD 20
    ∧ (v.extractLsb' 16 2 = 0#2 ∨ v.extractLsb' 16 2 = 1#2 → requestLanes v = .low
        ∧ (requestOffset v).toNat = (v.extractLsb' 0 16).toNat / 2 * 2)
    ∧ (v.extractLsb' 16 2 = 2#2 → requestLanes v = .high
        ∧ (requestOffset v).toNat = (v.extractLsb' 0 16).toNat / 2 * 2 + 1)
    ∧ (v.extractLsb' 16 2 = 3#2 → requestLanes v = .both ∧ requestOffset v = v.extractLsb' 0 16)

/-- A write to a Window or Timing register replaces every staged field of that register; a write to a
comparator's word sets all its fields and arms it with remaining equal to the count or, with count 0,
disarms it; nothing else of the part changes (R1, R124). -/
def Obligations.ConfigurationRegisterWrites : Prop :=
  ∀ (s : State) (t : Target) (n : ComparatorNo) (v : Word), let u := arrive s
    let c := u.targets[t].staged
    exec (.window t v) s = .next { u with
        targets := u.targets.set t { u.targets[t] with staged := { c with
          base := v.extractLsb' 0 16
          size := match (v.extractLsb' 16 4).toNat with
            | 0 => .s256 | 1 => .s512 | 2 => .s1K | 3 => .s2K | 4 => .s4K | 5 => .s8K | 6 => .s16K
            | 7 => .s32K | _ => .s64K
          width := if v.getLsbD 20 then .half else .byte
          ordering := if v.getLsbD 21 then .strict else .relaxed
          coalesce := v.getLsbD 22
          readySense := v.getLsbD 23
          attentionMode := match (v.extractLsb' 24 2).toNat with
            | 0 => .off | 1 => .rising | 2 => .falling | _ => .both
          attentionOrdering := v.getLsbD 26 } }
        hif := registerEnds u }
      ∧ exec (.timing t v) s = .next { u with
          targets := u.targets.set t { u.targets[t] with staged := { c with
            setup := v.extractLsb' 0 2
            strobe := v.extractLsb' 4 4
            hold := v.extractLsb' 8 2
            recovery := v.extractLsb' 16 8
            timeout := v.extractLsb' 24 6 } }
          hif := registerEnds u }
      ∧ exec (.watchComparator n v) s = .next { u with
      wu := u.wu.set n {
        offset := v.extractLsb' 0 16
        size := match (v.extractLsb' 16 2).toNat with
          | 0 => .one | 1 => .two | _ => .four
        kind := match (v.extractLsb' 18 2).toNat with
          | 1 => .write | 2 => .read | _ => .any
        count := v.extractLsb' 20 4
        remaining := v.extractLsb' 20 4
        action := if v.getLsbD 24 then .halt else .notice
        repeats := v.getLsbD 25
        armed := decide (v.extractLsb' 20 4 ≠ 0) }
      hif := registerEnds u }

/-- What software reads back after a write: the fields as written, a bit of no field as zero, and a
code that names nothing as the code its rule gives (R1, R124, R145, R153, R158). -/
def Obligations.WrittenRegistersReadBack : Prop :=
  ∀ (s s' : State) (v : Word),
    (∀ t : Target, exec (.window t v) s = .next s' →
        s'.readRegister (BitVec.ofNat 8 (0x80 + 16 * t.val)) =
          if 8 ≤ (v.extractLsb' 16 4).toNat then (v &&& 0x07F0FFFF#32) ||| 0x00080000#32
          else v &&& 0x07FFFFFF#32)
    ∧ (∀ t : Target, exec (.timing t v) s = .next s' →
        s'.readRegister (BitVec.ofNat 8 (0x84 + 16 * t.val)) = v &&& 0x3FFF03F3#32)
    ∧ (exec (.bridgeConfiguration v) s = .next s' → s'.readRegister 0x08#8 = v &&& 0x000107FF#32)
    ∧ (exec (.noticeSelect v) s = .next s' → s'.readRegister 0x28#8 = v &&& 0x00000FFE#32)
    ∧ ∀ n : ComparatorNo, exec (.watchComparator n v) s = .next s' →
        s'.readRegister (BitVec.ofNat 8 (0x30 + 4 * n.val)) =
          (v &&& 0x03F0FFFF#32)
            ||| (if v.extractLsb' 16 2 = 3#2 then 0x00020000#32 else v &&& 0x00030000#32)
            ||| (if v.extractLsb' 18 2 = 3#2 then 0 else v &&& 0x000C0000#32)
            ||| (if v.extractLsb' 20 4 = 0#4 then 0 else 0x80000000#32)

/-- The plain cycles of the register window, each with nothing else changed: one that is no word cycle
ends with bus error, a word write where no register takes one is discarded, and writes to Notice
Select, Event Summary, Notice Pop and Bridge Configuration act as their rules say (R87, R136, R139,
R145, R158). -/
def Obligations.PlainRegisterCycles : Prop :=
  ∀ (s : State) (v : Word), let u := arrive s
    (∀ write offset size, size ≠ .word → exec (.registerWindowBusError write offset size) s =
        .next { u with hif := ending (.registerWindow .busError) u })
    ∧ (∀ offset, takesNoWrite offset →
        exec (.registerWrite offset v) s = .next { u with hif := registerEnds u })
    ∧ exec (.noticeSelect v) s = .next { u with
        nq := { u.nq with select := v &&& 0x00000FFE#32 }, hif := registerEnds u }
    ∧ exec (.eventSummary v) s = .next { u with
        nq := { u.nq with summary := u.nq.summary &&& ~~~v }, hif := registerEnds u }
    ∧ exec (.noticePop v) s = .next { u with
        nq := { u.nq with records := u.nq.records.tail }, hif := registerEnds u }
    ∧ exec (.bridgeConfiguration v) s = .next { u with
        bc := { u.bc with config := { holdLimit := v.extractLsb' 0 8
                                      turnaround := v.extractLsb' 8 3
                                      interruptEnable := v.getLsbD 16 } }
        hif := registerEnds u }

/-- Oldest Outstanding PN is the PN of the oldest entry present, or Next PN while the queue is empty
(R21); and what the registers show, by the codes of section 12.4: Posting Status, Bridge Status (R74,
R91), Last Fence Retired (R22), Command Status with the codes of R155 (R144), Notice Select and Event
Summary (R136), a comparator's word, its count position the remaining count while armed and the
programmed count while disarmed (R123), and zero at write-only registers and unused words (R87) and at
an offset that is no multiple of 4 (the model's reading, assumption 8). -/
def Obligations.BridgeRegistersShowState : Prop :=
  (∀ q : WriteQueue, (q.entries = [] → q.oldestOutstanding = q.nextPn)
      ∧ ∀ e rest, q.entries = e :: rest → q.oldestOutstanding = e.pn)
    ∧ (∀ s : State, (s.readRegister 0x10#8).extractLsb' 16 16 = s.wq.oldestOutstanding
        ∧ (s.readRegister 0x10#8).extractLsb' 0 16 = s.wq.nextPn)
    ∧ (∀ s : State, let w := s.readRegister 0x04#8
    s.wq.entries.length ≤ 8 → s.nq.records.length ≤ 16 →
      w.extractLsb' 0 2 = (match s.bc.state with
        | .running => 0#2 | .quiescing => 1#2 | .quiesced => 2#2 | .clearing => 3#2)
      ∧ w.getLsbD 2 = s.dbe.access.isSome ∧ w.getLsbD 3 = s.interruptLine
      ∧ (w.extractLsb' 4 4).toNat = s.wq.entries.length
      ∧ w.extractLsb' 8 2 = (match s.hif.held with
        | none => 0#2
        | some (.write _) => 1#2
        | some (.read r) => if r.phase = .waiting then 2#2 else 3#2)
      ∧ (w.extractLsb' 10 5).toNat = s.nq.records.length
      ∧ (∀ k : SlotNo, w.getLsbD (16 + k.val) = s.fs[k].refused)
      ∧ w.getLsbD 15 = false ∧ w.extractLsb' 20 12 = 0)
    ∧ (∀ s : State, s.readRegister 0x14#8 = s.wq.lastFenceRetired.setWidth 32)
    ∧ (∀ s : State, let w := s.readRegister 0x0C#8
      w.extractLsb' 0 8 = s.bc.status.command
      ∧ (w.extractLsb' 8 3).toNat = commandResultNumber s.bc.status.result
      ∧ (w.extractLsb' 11 5).toNat = (detailNumbers s.bc.status.detail).1
      ∧ (w.extractLsb' 16 16).toNat = (detailNumbers s.bc.status.detail).2)
    ∧ (∀ s : State, s.readRegister 0x28#8 = s.nq.select ∧ s.readRegister 0x2C#8 = s.nq.summary)
    ∧ (∀ (s : State) (n : ComparatorNo), let c := s.wu[n]
      s.readRegister (BitVec.ofNat 8 (0x30 + 4 * n.val)) = BitVec.ofNat 32 (c.offset.toNat
        + (match c.size with | .one => 0 | .two => 1 | .four => 2) * 2 ^ 16
        + (match c.kind with | .any => 0 | .write => 1 | .read => 2) * 2 ^ 18
        + (if c.armed then c.remaining.toNat else c.count.toNat) * 2 ^ 20
        + (if c.action = .halt then 2 ^ 24 else 0) + (if c.repeats then 2 ^ 25 else 0)
        + if c.armed then 2 ^ 31 else 0))
    ∧ ∀ (s : State) (offset : BitVec 8),
      offset.toNat % 4 ≠ 0 ∨ offset = 0x24#8
        ∨ (0x40 ≤ offset.toNat ∧ offset.toNat < 0x80 ∧ offset.toNat % 16 ≠ 4) →
      s.readRegister offset = 0

/-- What the Notice Head registers show: the fields of the head record by the codes of section 12.4,
absent ones as zero, and zero with no record (R133, R138). What a Result register shows of a slot, by
its state: nothing in Free; low half done in Waiting, Issued and Cancelling alone, with result None;
the result in Done and Failed, data in Done alone, and target zero for the results Decode Miss and
Refused (R97). -/
def Obligations.NoticeHeadAndResultShowRecords : Prop :=
  (∀ s : State, s.nq.records = [] → s.readRegister 0x18#8 = 0 ∧ s.readRegister 0x1C#8 = 0
        ∧ s.readRegister 0x20#8 = 0)
    ∧ (∀ (s : State) (r : NoticeRecord) (rest : List NoticeRecord),
      let shows (kind target index cause access lanes : Nat) (flag : Bool) (offset : Offset)
          (data : LaneWord) (pn : PN) (count : Nat) : Prop :=
        s.readRegister 0x18#8 = BitVec.ofNat 32 (r.sequence.toNat + kind * 2 ^ 8 + target * 2 ^ 12
            + index * 2 ^ 16 + cause * 2 ^ 20 + access * 2 ^ 24 + lanes * 2 ^ 26
            + if flag then 2 ^ 28 else 0)
          ∧ s.readRegister 0x1C#8 = data ++ offset
          ∧ s.readRegister 0x20#8 = BitVec.ofNat 32 (pn.toNat + count * 2 ^ 16)
      s.nq.records = r :: rest →
        match r.body with
        | .notice (.writeFault t pn o l d c) =>
          shows 1 t.val 0 (causeNumber c) 0 (lanesNumber l) false o d pn 0
        | .notice (.readFault t o l c) =>
          shows 2 t.val 0 (causeNumber c) 0 (lanesNumber l) false o 0 0 0
        | .notice (.lateRead t o l d) => shows 3 t.val 0 0 0 (lanesNumber l) false o d 0 0
        | .notice (.fetchDone k t o d) => shows 4 t.val k.val 0 0 0 false o d 0 0
        | .notice (.fetchFailed k t c) =>
          shows 5 (t.elim 0 (·.val)) k.val (causeNumber c) 0 0 false 0 0 0 0
        | .notice (.fenceRetired pn) => shows 6 0 0 0 0 0 false 0 0 pn 0
        | .notice (.attention t count dropped) => shows 7 t.val 0 0 0 0 dropped 0 0 0 count
        | .notice (.watchHit n t o l d kind pn halted) =>
          shows 8 t.val n.val 0 (accessKindNumber kind) (lanesNumber l) halted o d (pn.getD 0) 0
        | .notice (.decodeMiss o c kind) =>
          shows 9 0 0 (causeNumber c) (accessKindNumber kind) 0 false o 0 0 0
        | .notice (.refused t o c kind) =>
          shows 10 t.val 0 (causeNumber c) (accessKindNumber kind) 0 false o 0 0 0
        | .notice .quiesced => shows 11 0 0 0 0 0 false 0 0 0 0
        | .overflow count => shows 12 0 0 0 0 0 false 0 0 0 count.toNat)
    ∧ ∀ (s : State) (k : SlotNo), let r := s.fs[k]
      let shows (state result target : Nat) (low : Bool) (data : Nat) : Prop :=
        s.readRegister (BitVec.ofNat 8 (0x44 + 16 * k.val)) = BitVec.ofNat 32 (state + result * 2 ^ 4
          + target * 2 ^ 8 + lanesNumber r.lanes * 2 ^ 12 + (if low then 2 ^ 14 else 0)
          + data * 2 ^ 16)
      match r.state with
      | .free => s.readRegister (BitVec.ofNat 8 (0x44 + 16 * k.val)) = 0
      | .waiting => shows 1 0 r.target.val r.lowHalfDone 0
      | .issued => shows 2 0 r.target.val r.lowHalfDone 0
      | .cancelling => shows 3 0 r.target.val r.lowHalfDone 0
      | .done => shows 4 (slotResultNumber r.result) r.target.val false r.data.toNat
      | .failed => shows 5 (slotResultNumber r.result)
          (if r.result = .decodeMiss ∨ r.result = .refused then 0 else r.target.val) false 0

/-- Target Status and Fault Detail show, by the codes of section 12.4, a target's admission, its
recovery timer, its held attention count and its fault record, the fields absent for the cause as
zero, and zero with no record (R13, R157). -/
def Obligations.TargetStatusShowsFaultRecord : Prop :=
  ∀ (s : State) (t : Target), let w := s.readRegister (BitVec.ofNat 8 (0x88 + 16 * t.val))
    let d := s.readRegister (BitVec.ofNat 8 (0x8C + 16 * t.val))
    let shows (cause : BitVec 3) (lanes : Lanes) (number : Nat) (pn : PN) (offset : Offset)
        (data : LaneWord) : Prop :=
      w.extractLsb' 0 2 = 2#2 ∧ w.extractLsb' 8 3 = cause ∧ (w.extractLsb' 12 2).toNat = lanesNumber lanes
      ∧ (w.extractLsb' 14 2).toNat = number ∧ w.extractLsb' 16 16 = pn ∧ d = data ++ offset
    (∀ r, s.au[t].record = some r → r.count ≤ 15) →
      w.getLsbD 2 = s.dbe.recovery[t].isSome
      ∧ (s.au[t].record = none → w.extractLsb' 4 4 = 0)
      ∧ (∀ r, s.au[t].record = some r → (w.extractLsb' 4 4).toNat = r.count)
      ∧ (s.admission t = .disabled → w.extractLsb' 0 2 = 0#2 ∧ w.extractLsb' 8 24 = 0 ∧ d = 0)
      ∧ (s.admission t = .opened → w.extractLsb' 0 2 = 1#2 ∧ w.extractLsb' 8 24 = 0 ∧ d = 0)
      ∧ (∀ pn offset lanes data, s.admission t = .halted (.writeTimeout pn offset lanes data) →
          shows 1#3 lanes 0 pn offset data)
      ∧ (∀ offset lanes, s.admission t = .halted (.readTimeout offset lanes) →
          shows 2#3 lanes 0 0 offset 0)
      ∧ (∀ offset lanes k, s.admission t = .halted (.fetchTimeout offset lanes k) →
          shows 3#3 lanes k.val 0 offset 0)
      ∧ ∀ pn offset lanes data n, s.admission t = .halted (.watch pn offset lanes data n) →
          shows 4#3 lanes n.val (pn.getD 0) offset data

/-! ## Decode -/

/-- Decode: an aperture cycle that has no lanes is a miss of cause Width; otherwise the offset goes to
the one enabled target whose live window contains it, with the lanes its size and lowest bit give,
and is a miss of cause No Window where there is none; a window is of one of nine sizes (section 1.1,
R8, R9). -/
def Obligations.DecodeByLiveWindows : Prop :=
  [WindowSize.s256, .s512, .s1K, .s2K, .s4K, .s8K, .s16K, .s32K, .s64K].map WindowSize.bytes
      = [256, 512, 1024, 2048, 4096, 8192, 16384, 32768, 65536]
  ∧ ∀ (s : State) (offset : Offset), WindowsWf s →
    s.decode offset .word = .miss .width ∧ s.decode offset .unsized = .miss .width
    ∧ (offset.toNat % 2 = 1 → s.decode offset .half = .miss .width
        ∧ s.decode offset .byte = s.decodeLanes offset .high)
    ∧ (offset.toNat % 2 = 0 → s.decode offset .half = s.decodeLanes offset .both
        ∧ s.decode offset .byte = s.decodeLanes offset .low)
    ∧ ∀ lanes,
        (∀ t, s.decodeLanes offset lanes = .hit t lanes ↔
          (s.admission t).enabled ∧ (s.live t).base.toNat ≤ offset.toNat
            ∧ offset.toNat < (s.live t).base.toNat + (s.live t).size.bytes)
        ∧ (s.decodeLanes offset lanes = .miss .noWindow ↔
            ∀ t, (s.admission t).enabled → ¬ ((s.live t).base.toNat ≤ offset.toNat
              ∧ offset.toNat < (s.live t).base.toNat + (s.live t).size.bytes))

/-! ## Wait-sets and departures -/

/-- An arriving request becomes the youngest, and its wait-set holds exactly the present requests
that satisfy one of the five conditions (R43). -/
def Obligations.WaitSetAtArrival : Prop :=
  ∀ (s : State) (id : RequestId) (x : Option Target), ∃ waitSet,
    arriveRequest id x s = { s with ou := s.ou ++ [⟨id, x, waitSet⟩] }
    ∧ ∀ m, m ∈ waitSet ↔ ∃ y ∈ s.ou, y.id = m ∧
        (y.target = none ∨ x = none ∨ y.target = x
          ∨ (∃ ty, y.target = some ty ∧ (s.live ty).ordering = .strict)
          ∨ ∃ tx, x = some tx ∧ (s.live tx).ordering = .strict)

/-- Requests that depart leave the present set and every wait-set, the others keeping their order,
targets and remaining members. Entries that leave the write queue: the others keep their order, the
departed are struck out of every wait-set and every held attention record, a removal sets writes
dropped in each record that held one, and a held write is due a re-check (R36, R37, R41, R42, R44,
R112, R120). What a departure frees the arbiter may grant (R53;
the mark `freed` is the model's own, assumption 6). -/
def Obligations.Departures : Prop :=
  (∀ (ids : List RequestId) (s : State),
    (depart ids s).ou.map (·.id) = (s.ou.map (·.id)).filter (fun i => decide (i ∉ ids))
    ∧ (∀ r', r' ∈ (depart ids s).ou ↔ ∃ r ∈ s.ou, r.id ∉ ids ∧ r'.id = r.id ∧ r'.target = r.target
        ∧ r'.waitSet = r.waitSet.filter (fun m => decide (m ∉ ids)))
    ∧ depart ids s = { s with ou := (depart ids s).ou, freed := s.freed.or (some .other) })
    ∧ ∀ (pns : List PN) (dropped : Bool) (s : State),
    leaveQueue pns dropped s = { s with
      wq := { s.wq with entries := s.wq.entries.filter (fun e => decide (e.pn ∉ pns)) }
      ou := (depart (pns.map .entry) s).ou
      au := (leaveQueue pns dropped s).au
      freed := s.freed.or (some .other)
      hif := { s.hif with recheckDue :=
        s.hif.recheckDue || (s.heldWrite?.isSome && decide (pns ≠ [])) } }
    ∧ ∀ t : Target, (leaveQueue pns dropped s).au[t].high = s.au[t].high
      ∧ (s.au[t].record = none → (leaveQueue pns dropped s).au[t].record = none)
      ∧ ∀ r, s.au[t].record = some r → (leaveQueue pns dropped s).au[t].record = some {
          count := r.count
          writesDropped := r.writesDropped || (dropped && r.waitSet.any (fun m => decide (m ∈ pns)))
          waitSet := r.waitSet.filter (fun m => decide (m ∉ pns)) }

/-! ## Aperture writes -/

/-- The four arrival checks of an aperture write, in order, and what each failure does; a write that
passes them all has an Open target (R23). -/
def Obligations.ApertureWriteChecks : Prop :=
  ∀ (s : State) (offset : Offset) (size : CycleSize) (data : Word),
    let u := arriveAtWrite offset size data s
    let refused := ending (.apertureWrite offset .busError) u
    hifFree u →
      (u.bc.state = .clearing →
        exec (.apertureWrite offset size data) s = .next { u with hif := refused })
      ∧ (u.bc.state ≠ .clearing →
          (∀ cause, u.decode offset size = .miss cause →
            exec (.apertureWrite offset size data) s =
              .next { u with hif := refused, nq := u.nq.offer (.decodeMiss offset cause .write) })
          ∧ ∀ t lanes, u.decode offset size = .hit t lanes →
            (∀ fault, u.admission t = .halted fault →
              exec (.apertureWrite offset size data) s = .next { u with
                hif := refused, nq := u.nq.offer (.refused t offset .halted .write) })
            ∧ ((∀ fault, u.admission t ≠ .halted fault) →
                u.admission t = .opened
                ∧ (u.bc.state ≠ .running →
                    exec (.apertureWrite offset size data) s = .next { u with
                      hif := refused, nq := u.nq.offer (.refused t offset .quiescing .write) })))

/-- An admitted write that may be merged changes the tail entry's lanes, offset and data and nothing
else, and ends with ready; a grant of that entry that is due may come after it (R26 to R28,
assumption 6). -/
def Obligations.AdmittedWriteMerged : Prop :=
  ∀ (s : State) (offset : Offset) (size : CycleSize) (data : Word) (t : Target) (lanes : Lanes)
    (older : List QueueEntry) (e : WriteEntry), let u := arriveAtWrite offset size data s
    let bytes : LaneWord := data.extractLsb' 0 16
    let union : Lanes := if e.lanes = lanes then lanes else .both
    hifFree u → u.bc.state = .running → u.decode offset size = .hit t lanes →
    u.admission t = .opened → WriteQueueWf u.wq → u.wq.entries = older ++ [.write e] →
    mayMerge u e t offset →
      exec (.apertureWrite offset size data) s = .next { u with
        wq := { u.wq with entries := older ++ [.write { e with
          lanes := union
          offset := if union = .both then e.offset &&& 0xFFFE#16 else e.offset
          data := (if lanes = .low then e.data &&& 0xFF00#16 else bytes &&& 0xFF00#16)
            ||| (if lanes = .high then e.data &&& 0x00FF#16 else bytes &&& 0x00FF#16) }] }
        hif := ending (.apertureWrite offset (.ready 0)) u }

/-- An admitted write that may not be merged is entered at the tail with the next PN where the queue
has room, and ends with ready; without room it is held, unanswered, and the hold timer starts
(R17, R19, R24, R29). -/
def Obligations.AdmittedWriteEnteredOrHeld : Prop :=
  ∀ (s : State) (offset : Offset) (size : CycleSize) (data : Word) (t : Target) (lanes : Lanes),
    let u := arriveAtWrite offset size data s
    let bytes := bytesIn lanes (data.extractLsb' 0 16)
    hifFree u → u.bc.state = .running → u.decode offset size = .hit t lanes →
    u.admission t = .opened →
    (∀ older e, u.wq.entries = older ++ [.write e] → ¬ mayMerge u e t offset) →
      (hasRoom u.wq → exec (.apertureWrite offset size data) s = .next
        { withWriteEntered t offset lanes bytes u with
          hif := ending (.apertureWrite offset (.ready 0)) u })
      ∧ (¬ hasRoom u.wq → exec (.apertureWrite offset size data) s = .next { u with
          hif := { u.hif with held := some (.write ⟨t, offset, lanes, bytes⟩)
                              holdTimer := some (holdLimitDP u), recheckDue := false } })

/-- The re-check of a held write after a departure: refused with cause Quiescing where the bridge is
Quiescing or Quiesced, whatever the room; with the bridge Running, refused with cause Halted where its
target is Halted, entered as an entry of its own where the queue has room, and left held where it has
none (R30, R33). That a Quiescing bridge comes before a Halted target, and a Halted target before want
of room, is the model's order (assumption 5). -/
def Obligations.HeldWriteRecheck : Prop :=
  ∀ (s : State) (w : HeldWrite), let u := newStep s
    let free := { u.hif with held := none, holdTimer := none, recheckDue := false }
    let refused := { free with replies := [.apertureWrite w.offset .busError] }
    s.heldWrite? = some w → s.hif.recheckDue = true →
      (s.bc.state = .running → s.admission w.target = .opened →
        (hasRoom s.wq → exec .heldWriteRecheck s =
          .next { withWriteEntered w.target w.offset w.lanes w.data u with
            hif := { free with replies := [.apertureWrite w.offset (.ready 0)] } })
        ∧ (¬ hasRoom s.wq → exec .heldWriteRecheck s =
            .next { u with hif := { u.hif with recheckDue := false } }))
      ∧ ({ u with hif := free }.departureDues = [] →
          (s.bc.state = .quiescing ∨ s.bc.state = .quiesced → exec .heldWriteRecheck s = .next { u with
            hif := refused, nq := s.nq.offer (.refused w.target w.offset .quiescing .write) })
          ∧ (s.bc.state = .running → (∃ fault, s.admission w.target = .halted fault) →
            exec .heldWriteRecheck s = .next { u with
              hif := refused, nq := s.nq.offer (.refused w.target w.offset .halted .write) }))

/-- An aperture cycle that finds the HIF occupied is stretched behind those already stretched and acts
on nothing; once the HIF is free the one that came first is taken and does what a new arrival of it
would do, whatever the device bus is doing (R34). While the bridge is Clearing it ends with bus error
and without a notice: at once where the HIF is free, and behind an Issued read when CLEAR is to take
effect, before that if it is taken first (R149, R151). The grant of a request on its own arrival comes before
it; another that is due may come after it (R53, assumption 6). -/
def Obligations.StretchedCycles : Prop :=
  (∀ s : State,
      (∀ offset size data, let u := arriveAtWrite offset size data s
        ¬ hifFree u → exec (.apertureWrite offset size data) s = .next { u with
          hif := { u.hif with stretched := u.hif.stretched ++ [.write offset size data] } })
      ∧ ∀ offset size, let u := arrive s
        ¬ hifFree u → exec (.apertureRead offset size) s = .next { u with
          hif := { u.hif with stretched := u.hif.stretched ++ [.read offset size] } })
    ∧ ∀ (s : State) c rest, s.departureDues = [] → s.hif.stretched = c :: rest →
      (s.grantDue = true → s.freed = none → ∃ t, exec .issueGrant s = .next t
        ∧ exec .stretchedCycleTaken s = exec .stretchedCycleTaken t)
      ∧ ((s.grantDue = true → s.freed ≠ none) →
        let freed := if s.grantDue then s.freed else none
        (∀ bus : DeviceBus, s.hif.held = none →
          let alone : State := { s with hif := { s.hif with stretched := [] }, dbe := bus }
          Settled alone →
            ∃ t, exec (match c with
                | .write offset size data => .apertureWrite offset size data
                | .read offset size => .apertureRead offset size) alone = .next t
              ∧ exec .stretchedCycleTaken s = .next { t with
                  hif := { t.hif with stretched := rest }, dbe := s.dbe, freed := freed })
        ∧ (s.bc.state = .clearing → s.hif.held = none ∨ s.dbe.access = none →
            exec .stretchedCycleTaken s = .next { s with freed := none, hif := { s.hif with
              stretched := rest
              replies := [match c with
                | .write offset _ _ => .apertureWrite offset .busError
                | .read offset _ => .apertureRead offset .busError] } })
        ∧ (s.hif.held ≠ none → s.bc.state ≠ .clearing ∨ s.dbe.access ≠ none →
            exec .stretchedCycleTaken s = .next (newStep s)))

/-! ## Aperture reads -/

/-- The three arrival checks of an aperture read, in order, and what each failure does (R77). A read
that passes them is held, Waiting, in any bridge state but Clearing: its record, its hold timer, its
request with its wait-set, and no answer to the host yet (R78). -/
def Obligations.ApertureReadArrival : Prop :=
  ∀ (s : State) (offset : Offset) (size : CycleSize), let u := arrive s
    let refused := ending (.apertureRead offset .busError) u
    hifFree u →
      (u.bc.state = .clearing →
        exec (.apertureRead offset size) s = .next { u with hif := refused })
      ∧ (u.bc.state ≠ .clearing →
          (∀ cause, u.decode offset size = .miss cause →
            exec (.apertureRead offset size) s =
              .next { u with hif := refused, nq := u.nq.offer (.decodeMiss offset cause .read) })
          ∧ ∀ t lanes, u.decode offset size = .hit t lanes →
            (∀ fault, u.admission t = .halted fault →
              exec (.apertureRead offset size) s = .next { u with
                hif := refused, nq := u.nq.offer (.readFault t offset lanes .halted) })
            ∧ (u.admission t = .opened →
              exec (.apertureRead offset size) s = .next { u with
                hif := { u.hif with
                  held := some (.read { target := t, offset := offset, lanes := lanes
                                        phase := .waiting, lowHalfDone := false, keptLow := none
                                        cycle := .opened })
                  holdTimer := some (holdLimitDP u), recheckDue := false }
                ou := u.ou ++ [⟨.heldRead, some t, u.waitSetOf (some t)⟩] }))

/-- Hold expiry. A held write is dropped with bus error and a Refused notice; a Waiting held read ends
so too and departs; of an Issued one only the host cycle ends, with bus error and no notice (R31, R81,
R82). An expiry in Waiting may come before the read's grant that is due (assumption 6), and the timer stops at
an expiry in Issued (assumption 9). -/
def Obligations.HoldExpiry : Prop :=
  (∀ (s : State) (w : HeldWrite) (limit : Nat), let u := arrive s
    u.heldWrite? = some w → u.hif.holdTimer = some limit →
    exec .heldWriteHoldExpired s = .next { u with
      hif := { u.hif with held := none, holdTimer := none, recheckDue := false
                          replies := u.hif.replies ++ [.apertureWrite w.offset .busError] }
      nq := u.nq.offer (.refused w.target w.offset .holdExpired .write) })
    ∧ (∀ (s : State) (r : HeldRead) (limit : Nat), let u := arriveAtExpiry s
      u.heldRead? = some r → u.hif.holdTimer = some limit → r.phase = .waiting →
      nothingWaitsForDrain u → exec .holdExpiryWaiting s = .next { u with
        hif := { u.hif with held := none, holdTimer := none, recheckDue := false
                            replies := u.hif.replies ++ [.apertureRead r.offset .busError] }
        ou := (depart [.heldRead] u).ou, freed := some .other
        nq := u.nq.offer (.refused r.target r.offset .holdExpired .read) })
    ∧ ∀ (s : State) (r : HeldRead) (limit : Nat), let u := arrive s
      u.heldRead? = some r → u.hif.holdTimer = some limit → r.phase = .issued → r.cycle = .opened →
      exec .holdExpiryIssued s = .next { u with
        hif := { u.hif with held := some (.read { r with cycle := .ended }), holdTimer := none
                            replies := u.hif.replies ++ [.apertureRead r.offset .busError] } }

/-! ## Fetch slots -/

/-- A Request: ignored but for the refused indication where the slot is not Free; otherwise the slot
records it and goes to Failed or, for an Open target, to Waiting as a present request
(R90, R91, R96). -/
def Obligations.FetchRequest : Prop :=
  ∀ (s : State) (k : SlotNo) (v : Word), let u := arrive s
    let lanes := requestLanes v
    let offset := requestOffset v
    let oddHalfword : Prop := lanes = .both ∧ offset.toNat % 2 = 1
    let slot (state : SlotState) (result : SlotResult) (t : Target) : FetchSlot :=
      { state := state, offset := offset, lanes := lanes, notify := requestNotify v, target := t
        lowHalfDone := false, data := 0, result := result, refused := false }
    let failed (result : SlotResult) (t : Option Target) (cause : NoticeCause) : State :=
      { u with fs := u.fs.set k (slot .failed result (t.getD 0))
               nq := if requestNotify v then u.nq.offer (.fetchFailed k t cause) else u.nq
               hif := registerEnds u }
    (u.fs[k].state ≠ .free → exec (.request k v) s =
        .next { u with fs := u.fs.set k { u.fs[k] with refused := true }, hif := registerEnds u })
    ∧ (u.fs[k].state = .free →
        (u.bc.state = .clearing → exec (.request k v) s =
          .next { u with fs := u.fs.set k (slot .failed .refused 0), hif := registerEnds u })
        ∧ (u.bc.state ≠ .clearing →
            (oddHalfword ∨ u.decodeLanes offset lanes = .miss .noWindow →
              exec (.request k v) s = .next (failed .decodeMiss none .decodeMiss))
            ∧ ∀ t, ¬ oddHalfword → u.decodeLanes offset lanes = .hit t lanes →
              (∀ fault, u.admission t = .halted fault →
                exec (.request k v) s = .next (failed .halted (some t) .halted))
              ∧ (u.admission t = .opened → exec (.request k v) s = .next { u with
                  fs := u.fs.set k (slot .waiting .none t)
                  ou := u.ou ++ [⟨.fetch k, some t, u.waitSetOf (some t)⟩]
                  hif := registerEnds u })))

/-- Release acts by the slot's state: a Waiting fetch departs, an Issued one goes to Cancelling, and a
slot gone to Free shows nothing but its refused indication (R91, R98). It may come before the grant
of its fetch that is due (R99, assumption 6). -/
def Obligations.FetchRelease : Prop :=
  ∀ (s : State) (k : SlotNo) (v : Word), let u := arriveAtRelease k s
    let free : FetchSlot := { FetchSlot.powerOn with refused := u.fs[k].refused }
    (u.fs[k].state = .free ∨ u.fs[k].state = .cancelling →
        exec (.release k v) s = .next { u with hif := registerEnds u })
    ∧ (u.fs[k].state = .waiting → exec (.release k v) s = .next { u with
        fs := u.fs.set k free, ou := (depart [.fetch k] u).ou, freed := some .other
        hif := registerEnds u })
    ∧ (u.fs[k].state = .issued → exec (.release k v) s = .next { u with
        fs := u.fs.set k { u.fs[k] with state := .cancelling }, hif := registerEnds u })
    ∧ (u.fs[k].state = .done ∨ u.fs[k].state = .failed →
        exec (.release k v) s = .next { u with fs := u.fs.set k free, hif := registerEnds u })

/-! ## Commands -/

/-- While the bridge is Clearing every command is refused with Refused-Clearing, and a code that names
no command, 00H or 0AH to FFH, is otherwise refused with Refused-Argument (R143, R155). DISCARD and
CLEAR may come before a grant that is due (assumption 6). -/
def Obligations.ClearingAndUnknownCodesRefuse : Prop :=
  ∀ s : State,
    (∀ c code, commandCode c = some code → (metBy c s).bc.state = .clearing →
        exec c s = .next (answered code .refusedClearing .none (metBy c s)))
    ∧ ∀ code, code = 0x00#8 ∨ 0x0A#8 ≤ code → (arrive s).bc.state ≠ .clearing →
        exec (.unknownCommand code) s =
          .next (answered code .refusedArgument .unknownCommand (arrive s))

/-- A refused command changes nothing outside Command Status (R144), in the state the command finds
(assumption 6 for DISCARD and CLEAR). -/
def Obligations.RefusedCommandChangesOnlyStatus : Prop :=
  ∀ (s t : State) (c : Instr) (code : BitVec 8), commandCode c = some code →
    exec c s = .next t → t.bc.status.command = code
      ∧ (t.bc.status.result ≠ .accepted →
          t = answered code t.bc.status.result t.bc.status.detail (metBy c s))

namespace Sys2Proof

/-- Two windows have an offset in common. -/
def shareOffset (c d : TargetConfig) : Prop :=
  ∃ o : Nat, (c.base.toNat ≤ o ∧ o < c.base.toNat + c.size.bytes)
    ∧ d.base.toNat ≤ o ∧ o < d.base.toNat + d.size.bytes

end Sys2Proof

/-- ENABLE: refused in Open and Halted; for a Disabled target the four checks on its staged
configuration, in order, and where all pass the live configuration loaded and the target Open
(R4, R5). -/
def Obligations.EnableCommand : Prop :=
  ∀ (s : State) (t : Target), let u := arrive s; let c := u.targets[t].staged
    u.bc.state ≠ .clearing →
      (u.admission t = .opened →
        exec (.enable t) s = .next (answered 0x01#8 .refusedState .opened u))
      ∧ (∀ fault, u.admission t = .halted fault →
          exec (.enable t) s = .next (answered 0x01#8 .refusedState .halted u))
      ∧ (u.admission t = .disabled →
          (c.base.toNat % c.size.bytes ≠ 0 →
            exec (.enable t) s = .next (answered 0x01#8 .refusedArgument .alignment u))
          ∧ (c.base.toNat % c.size.bytes = 0 → c.strobe = 0 →
              exec (.enable t) s = .next (answered 0x01#8 .refusedArgument .strobe u))
          ∧ (c.base.toNat % c.size.bytes = 0 → c.strobe ≠ 0 → c.timeout = 0 →
              exec (.enable t) s = .next (answered 0x01#8 .refusedArgument .timeout u))
          ∧ (c.base.toNat % c.size.bytes = 0 → c.strobe ≠ 0 → c.timeout ≠ 0 →
              (∀ x : Target, (u.admission x).enabled → shareOffset c (u.live x) →
                (∀ y < x, (u.admission y).enabled → ¬ shareOffset c (u.live y)) →
                exec (.enable t) s = .next (answered 0x01#8 .refusedArgument (.overlap x) u))
              ∧ ((∀ x : Target, (u.admission x).enabled → ¬ shareOffset c (u.live x)) →
                  exec (.enable t) s = .next
                    { answered 0x01#8 .accepted .none u with
                      targets := u.targets.set t ⟨c, c, .opened⟩, freed := some .other })))

/-- DISABLE: refused for a Disabled target; for an enabled one the five conditions in order, each
refusing with its name, and where none holds the target Disabled (R6, R7). -/
def Obligations.DisableCommand : Prop :=
  ∀ (s : State) (t : Target), let u := arrive s
    let inFlight : Prop := ∃ a, u.dbe.access = some a ∧ a.target = t
    let heldCycle : Prop := (∃ w, u.heldWrite? = some w ∧ w.target = t)
      ∨ ∃ r, u.heldRead? = some r ∧ r.target = t
    let writeEntry : Prop := ∃ e, .write e ∈ u.wq.entries ∧ e.target = t
    let fetch : Prop := ∃ k : SlotNo, u.fs[k].target = t
      ∧ (u.fs[k].state = .waiting ∨ u.fs[k].state = .issued ∨ u.fs[k].state = .cancelling)
    let record : Prop := u.au[t].record ≠ none
    let refusedBusy (detail : Detail) : Prop :=
      exec (.disable t) s = .next (answered 0x02#8 .refusedBusy detail u)
    u.bc.state ≠ .clearing →
      (u.admission t = .disabled →
        exec (.disable t) s = .next (answered 0x02#8 .refusedState .disabled u))
      ∧ (u.admission t ≠ .disabled →
          (inFlight → refusedBusy .inFlight)
          ∧ (¬ inFlight → heldCycle → refusedBusy .heldCycle)
          ∧ (¬ inFlight → ¬ heldCycle → writeEntry → refusedBusy .writeEntry)
          ∧ (¬ inFlight → ¬ heldCycle → ¬ writeEntry → fetch → refusedBusy .fetch)
          ∧ (¬ inFlight → ¬ heldCycle → ¬ writeEntry → ¬ fetch → record →
              refusedBusy .attentionRecord)
          ∧ (¬ inFlight → ¬ heldCycle → ¬ writeEntry → ¬ fetch → ¬ record →
              exec (.disable t) s = .next { answered 0x02#8 .accepted .none u with
                targets := u.targets.set t { u.targets[t] with admission := .disabled } }))

/-- FENCE: Refused-Full without room; with room a fence entry at the tail, present with the whole
present set as its wait-set, and its PN in Command Status (R18, R55). -/
def Obligations.FenceCommand : Prop :=
  ∀ (s : State) (notify : Bool), let u := arrive s
    u.bc.state ≠ .clearing →
      (¬ hasRoom u.wq → exec (.fence notify) s = .next (answered 0x03#8 .refusedFull .none u))
      ∧ (hasRoom u.wq → exec (.fence notify) s = .next
          (answered 0x03#8 .accepted (.number u.wq.nextPn) { u with
            wq := withEntry u.wq (.fence ⟨u.wq.nextPn, notify⟩)
            ou := u.ou ++ [⟨.entry u.wq.nextPn, none, u.ou.map (·.id)⟩] }))

/-- RESUME: a Halted target becomes Open, its failed entry, if any, no longer failed; no request
departs. SKIP: only a target Halted by Write Timeout; its failed entry leaves the queue without
retiring, and the target is Open (R106, R107, R109). -/
def Obligations.ResumeAndSkipCommands : Prop :=
  (∀ (s : State) (t : Target), let u := arrive s
    let opened := u.targets.set t { u.targets[t] with admission := .opened }
    u.bc.state ≠ .clearing →
      (u.admission t = .disabled →
        exec (.resume t) s = .next (answered 0x04#8 .refusedState .disabled u))
      ∧ (u.admission t = .opened →
          exec (.resume t) s = .next (answered 0x04#8 .refusedState .opened u))
      ∧ (∀ pn offset lanes data, u.admission t = .halted (.writeTimeout pn offset lanes data) →
          exec (.resume t) s = .next (answered 0x04#8 .accepted (.number pn) { u with
            targets := opened, freed := some .other
            wq := withChanged pn (fun e => { e with failed := false }) u.wq }))
      ∧ ∀ fault, u.admission t = .halted fault →
          (∀ pn offset lanes data, fault ≠ .writeTimeout pn offset lanes data) →
          exec (.resume t) s = .next (answered 0x04#8 .accepted (.number 0) { u with
            targets := opened, freed := some .other }))
    ∧ ∀ (s : State) (t : Target), let u := arrive s
    let refused (detail : Detail) : Prop :=
      exec (.skip t) s = .next (answered 0x05#8 .refusedState detail u)
    u.bc.state ≠ .clearing →
      (u.admission t = .disabled → refused .disabled)
      ∧ (u.admission t = .opened → refused .opened)
      ∧ (∀ offset lanes, u.admission t = .halted (.readTimeout offset lanes) → refused .readTimeout)
      ∧ (∀ offset lanes k, u.admission t = .halted (.fetchTimeout offset lanes k) →
          refused .fetchTimeout)
      ∧ (∀ pn offset lanes data n, u.admission t = .halted (.watch pn offset lanes data n) →
          refused .watch)
      ∧ ∀ pn offset lanes data, u.admission t = .halted (.writeTimeout pn offset lanes data) →
          exec (.skip t) s = .next (answered 0x05#8 .accepted (.number pn)
            (leaveQueue [pn] true { u with
              targets := u.targets.set t { u.targets[t] with admission := .opened } }))

/-- DISCARD: refused for a Disabled target and while an access of it is in flight; otherwise every
write entry of the target leaves the queue without retiring, and the target is Open (R106, R110). It
may come before a grant to the target that is due (R113, assumption 6). -/
def Obligations.DiscardCommand : Prop :=
  ∀ (s : State) (t : Target), let u := arriveAtDiscard t s
    let inFlight : Prop := ∃ a, u.dbe.access = some a ∧ a.target = t
    let pns : List PN := u.wq.entries.filterMap fun
      | .write e => if e.target = t then some e.pn else none
      | .fence _ => none
    u.bc.state ≠ .clearing →
      (u.admission t = .disabled →
        exec (.discard t) s = .next (answered 0x06#8 .refusedState .disabled u))
      ∧ (u.admission t ≠ .disabled → inFlight →
          exec (.discard t) s = .next (answered 0x06#8 .refusedBusy .inFlight u))
      ∧ (u.admission t ≠ .disabled → ¬ inFlight →
          exec (.discard t) s = .next (answered 0x06#8 .accepted
            (.number (BitVec.ofNat 16 pns.length))
            (leaveQueue pns true { u with
              targets := u.targets.set t { u.targets[t] with admission := .opened } })))

/-- QUIESCE: from Running only; straight to Quiesced with its notice where the drain condition holds,
else to Quiescing. OPEN: from Quiescing or Quiesced back to Running, with the state left as detail
(R146, R148). -/
def Obligations.QuiesceAndOpenCommands : Prop :=
  (∀ s : State, let u := arrive s
    let drained : Prop := u.wq.entries = [] ∧ u.heldRead? = none ∧ u.dbe.access = none
      ∧ ∀ k : SlotNo, u.fs[k].state = .free ∨ u.fs[k].state = .done ∨ u.fs[k].state = .failed
    (u.bc.state = .running → drained →
        exec .quiesce s = .next (answered 0x07#8 .accepted .quiesced { u with
          bc := { u.bc with state := .quiesced }, nq := u.nq.offer .quiesced }))
    ∧ (u.bc.state = .running → ¬ drained →
        exec .quiesce s = .next (answered 0x07#8 .accepted .quiescing { u with
          bc := { u.bc with state := .quiescing } }))
    ∧ (u.bc.state = .quiescing →
        exec .quiesce s = .next (answered 0x07#8 .refusedState .quiescing u))
    ∧ (u.bc.state = .quiesced →
        exec .quiesce s = .next (answered 0x07#8 .refusedState .quiesced u)))
    ∧ ∀ s : State, let u := arrive s
    (u.bc.state = .running → exec .openBridge s = .next (answered 0x08#8 .refusedState .running u))
    ∧ (u.bc.state = .quiescing → exec .openBridge s = .next (answered 0x08#8 .accepted .quiescing
        { u with bc := { u.bc with state := .running } }))
    ∧ (u.bc.state = .quiesced → exec .openBridge s = .next (answered 0x08#8 .accepted .quiesced
        { u with bc := { u.bc with state := .running } }))

/-- CLEAR: the bridge is Clearing, every comparator disarmed, and the held cycle ended as its kind and
phase give, without a notice (R33, R85, R132, R149). That the hold timer of an Issued read stops
(assumption 9), that a disarmed comparator keeps its remaining count (assumption 15), and that CLEAR
may come before the grant that an access end brought about (R150, assumption 6), are the model's
reading. -/
def Obligations.ClearCommand : Prop :=
  ∀ s : State, let u := arriveAtClear s
    let cleared (x : State) : Host.Outcome State Fault Refusal :=
      .next (answered 0x09#8 .accepted .none { x with
        bc := { x.bc with state := .clearing }
        wu := x.wu.map fun c => { c with armed := false } })
    let noCycle := { u.hif with held := none, holdTimer := none, recheckDue := false }
    u.bc.state ≠ .clearing →
      (u.hif.held = none → exec .clear s = cleared u)
      ∧ (∀ w, u.hif.held = some (.write w) → exec .clear s = cleared { u with hif :=
          { noCycle with replies := u.hif.replies ++ [.apertureWrite w.offset .busError] } })
      ∧ ∀ r, u.hif.held = some (.read r) →
          (r.phase = .waiting → exec .clear s = cleared { u with
            ou := (depart [.heldRead] u).ou, freed := some .other
            hif := { noCycle with
              replies := u.hif.replies ++ [.apertureRead r.offset .busError] } })
          ∧ (r.phase = .issued → r.cycle = .opened → exec .clear s = cleared { u with
              hif := { u.hif with held := some (.read { r with cycle := .ended }), holdTimer := none
                                  replies := u.hif.replies ++ [.apertureRead r.offset .busError] } })
          ∧ (r.phase = .issued → r.cycle = .ended → exec .clear s = cleared u)

/-- CLEAR takes effect once no access is in flight: what each block clears and what it keeps
(R151). -/
def Obligations.ClearTakesEffect : Prop :=
  ∀ s : State, s.bc.state = .clearing → s.dbe.access = none →
    ∃ t, exec .clearTakesEffect s = .next t
      ∧ t.bc = { s.bc with state := .running }
      ∧ t.wq = { s.wq with entries := [] } ∧ t.ou = []
      ∧ t.hif = { s.hif with held := none, holdTimer := none, recheckDue := false, replies := [] }
      ∧ (∀ k : SlotNo, t.fs[k] = FetchSlot.powerOn)
      ∧ (∀ x : Target, t.targets[x].staged = s.targets[x].staged
          ∧ t.targets[x].live = s.targets[x].live
          ∧ (s.admission x = .disabled → t.admission x = .disabled)
          ∧ (s.admission x ≠ .disabled → t.admission x = .opened))
      ∧ (∀ x : Target, t.au[x] = { high := s.au[x].high, record := none })
      ∧ t.wu = s.wu ∧ t.dbe = s.dbe
      ∧ t.nq = { records := [], sequence := 0, select := s.nq.select, summary := 0 }
      ∧ t.pending = s.pending ∧ t.choices = s.choices ∧ t.freed = some .other

/-! ## Eligibility and the grant -/

/-- A request is eligible exactly when its wait-set is empty, its target is Open with its recovery
timer stopped, and its owner does not show it Issued; a fence never is (R49). -/
def Obligations.EligibleIff : Prop :=
  ∀ (s : State) (r : PresentRequest), s.eligible r = true ↔
    r.waitSet = [] ∧ (∃ t, r.target = some t ∧ s.admission t = .opened ∧ s.dbe.recovery[t] = none)
    ∧ ((∃ pn e, r.id = .entry pn ∧ s.wq.find pn = some e
          ∧ (e.progress = .queued ∨ e.progress = .lowDone))
      ∨ (∃ h, r.id = .heldRead ∧ s.heldRead? = some h ∧ h.phase = .waiting)
      ∨ ∃ k, r.id = .fetch k ∧ s.fs[k].state = .waiting)
    ∧ (∀ h, s.heldRead? = some h ↔ s.hif.held = some (.read h))
    ∧ (WriteQueueWf s.wq → ∀ pn e, s.wq.find pn = some e ↔ .write e ∈ s.wq.entries ∧ e.pn = pn)

namespace Sys2Proof

/-- The access that begins at a grant: the low half, the high half or the whole of the request by the
table of R68, with the live timings of its target (R60, R63). -/
def beginning (id : RequestId) (t : Target) (c : TargetConfig) (offset : Offset) (lanes : Lanes)
    (lowHalfDone : Bool) (data : LaneWord) : Access :=
  let half : Half := if lanes = .both ∧ c.width = .byte then (if lowHalfDone then .high else .low)
    else .whole
  let accessLanes : Lanes := if half = .low then .low else if half = .high then .high else lanes
  { request := id, target := t, half := half, lanes := accessLanes
    address := if half = .high then offset + 1 else offset
    data := bytesIn accessLanes data
    phase := if c.setup = 0 then .strobe else .setup
    strobeCount := 0, setup := c.setup, strobe := c.strobe, hold := c.hold
    readySense := c.readySense, timeout := c.timeout, result := none }

end Sys2Proof

/-- The arbiter grants nothing while its conditions do not hold or no request is eligible, and grants
no request but the chosen one: the held read, else the fetch that arrived first, else the oldest write
entry, of the eligible. The chosen request becomes Issued and its access begins, with its offset,
lanes, the bytes of a write, and the low half, the high half or the whole by the table of R68 (R51,
R52, R60, R68). -/
def Obligations.IssueGrant : Prop :=
  ∀ s : State, let u := settleDepartures (newStep s)
    (¬ busFree u ∨ (∀ r ∈ u.ou, u.eligible r = false) → exec .issueGrant s = .next u)
    ∧ ((∃ r ∈ u.ou, u.eligible r = true) → ∃ r, chosen u r)
    ∧ ∀ r t, busFree u → chosen u r → r.target = some t →
      let bus (offset : Offset) (lanes : Lanes) (low : Bool) (data : LaneWord) : DeviceBus :=
        { u.dbe with access := some (beginning r.id t (u.live t) offset lanes low data) }
      (∀ pn e, r.id = .entry pn → u.wq.find pn = some e → exec .issueGrant s = .next { u with
          wq := withChanged pn (fun x => { x with progress := .issued, begun := true }) u.wq
          dbe := bus e.offset e.lanes (e.progress == .lowDone) e.data, freed := none })
      ∧ (∀ h, r.id = .heldRead → u.heldRead? = some h → exec .issueGrant s = .next { u with
          hif := { u.hif with held := some (.read { h with phase := .issued }) }
          dbe := bus h.offset h.lanes h.lowHalfDone 0, freed := none })
      ∧ ∀ k, r.id = .fetch k → exec .issueGrant s = .next { u with
          fs := u.fs.set k { u.fs[k] with state := .issued }
          dbe := bus u.fs[k].offset u.fs[k].lanes u.fs[k].lowHalfDone 0, freed := none }

/-- The request granted passes no older request it must follow: each present request older than it
stands in none of the relations of R43 to it (R46, R47). -/
def Obligations.GrantPassesNothingOrdered : Prop :=
  ∀ (s : State) (r : PresentRequest) (older younger : List PresentRequest), OrderWf s →
    s.eligible r = true → s.ou = older ++ r :: younger →
    ∀ y ∈ older, ∃ t ty, r.target = some t ∧ y.target = some ty ∧ ty ≠ t
      ∧ (s.live t).ordering = .relaxed ∧ (s.live ty).ordering = .relaxed

/-! ## The device bus -/

/-- The phases of an access: the strobe begins when the setup is complete; it ends at the strobe time
with ready sense off, and with it on at the first high sample from the strobe time to the access
timeout, or at the timeout. A recovery timer or the read-turnaround timer that expires is stopped
(R63 to R67, R71, R72). -/
def Obligations.AccessPhasesAndTimers : Prop :=
  (∀ (s : State) (a : Access), let u := arrive s
    let now (b : Access) : Host.Outcome State Fault Refusal :=
      .next { u with dbe := { u.dbe with access := some b } }
    let taken (lines : LaneWord) : LaneWord :=
      match a.request with
      | .entry _ => a.data
      | .heldRead | .fetch _ => takenBytes (u.live a.target).width a.lanes lines
    u.dbe.access = some a →
      (a.phase = .setup →
        exec .setupComplete s = now { a with phase := .strobe, strobeCount := 0 })
      ∧ (a.phase = .strobe → a.readySense = false → ∀ lines,
          exec (.strobeTimeReached lines) s = now { a with
            phase := .hold, strobeCount := a.strobe.toNat, result := some .done
            data := taken lines })
      ∧ (a.phase = .strobe → a.readySense = true →
          (∀ count lines, a.strobe.toNat ≤ count → count ≤ a.timeout.toNat * 64 →
            exec (.readySampledHigh count lines) s = now { a with
              phase := .hold, strobeCount := count, result := some .done, data := taken lines })
          ∧ exec .accessTimeout s = now { a with
              phase := .hold, strobeCount := a.timeout.toNat * 64, result := some .timeout }))
    ∧ ∀ s : State, let u := arrive s
    (∀ t, exec (.recoveryTimerExpires t) s =
        .next { u with dbe := { u.dbe with recovery := u.dbe.recovery.set t none }
                       freed := some .other })
    ∧ exec .turnaroundTimerExpires s =
        .next { u with dbe := { u.dbe with turnaround := none }, freed := some .other }

/-- The pins while the bus is free and through the phases of an access: select, address and lanes
throughout, the strobe in the strobe phase alone, data driven for a Write alone; and the bytes on the
data lines by width and lanes, those a Read takes and those a Write drives (R61, R62, R63, R64,
R67). -/
def Obligations.PinsFollowTheAccess : Prop :=
  (∀ s : State,
    (s.dbe.access = none → s.busPins =
      { select := none, address := s.dbe.addressLines, laneLow := false, laneHigh := false
        readStrobe := false, writeStrobe := false, dataLow := none, dataHigh := none })
    ∧ ∀ a, s.dbe.access = some a →
      s.busPins.select = some a.target ∧ s.busPins.address = a.address
      ∧ (s.busPins.laneLow = true ↔ a.lanes ≠ .high) ∧ (s.busPins.laneHigh = true ↔ a.lanes ≠ .low)
      ∧ (s.busPins.writeStrobe = true ↔ a.phase = .strobe ∧ ∃ pn, a.request = .entry pn)
      ∧ (s.busPins.readStrobe = true ↔ a.phase = .strobe ∧ ∀ pn, a.request ≠ .entry pn)
      ∧ (∀ pn, a.request = .entry pn → (s.busPins.dataLow, s.busPins.dataHigh) =
          drivenBytes (s.live a.target).width a)
      ∧ ((∀ pn, a.request ≠ .entry pn) → s.busPins.dataLow = none ∧ s.busPins.dataHigh = none))
    ∧ (∀ lines : LaneWord,
      takenBytes .half .low lines = lines &&& 0x00FF#16
      ∧ takenBytes .half .high lines = lines &&& 0xFF00#16
      ∧ takenBytes .half .both lines = lines
      ∧ takenBytes .byte .low lines = lines &&& 0x00FF#16
      ∧ takenBytes .byte .high lines = lines <<< 8)
    ∧ ∀ a : Access,
      (a.lanes = .low → ∀ width, drivenBytes width a = (some (a.data.extractLsb' 0 8), none))
      ∧ (a.lanes = .high → drivenBytes .half a = (none, some (a.data.extractLsb' 8 8))
          ∧ drivenBytes .byte a = (some (a.data.extractLsb' 8 8), none))
      ∧ (a.lanes = .both → drivenBytes .half a =
          (some (a.data.extractLsb' 0 8), some (a.data.extractLsb' 8 8)))

/-- Every end of an access frees the bus, starts its target's recovery timer and, for a Read, the
turnaround timer, an interval of 0 DP starting none, and leaves the address on the lines, whatever
else the end brings about and in whichever order; while the bridge is Clearing it does nothing else
(R62, R71, R72, R75). -/
def Obligations.AccessEndFreesTheBus : Prop :=
  (∀ (s : State) (a : Access), let u := arrive s
    u.dbe.access = some a → a.phase = .hold → ∃ t, exec .accessEnd s = .next t
      ∧ t.dbe.access = none ∧ t.dbe.addressLines = a.address
      ∧ t.dbe.recovery[a.target] = (if (u.live a.target).recovery = 0
          then u.dbe.recovery[a.target] else some ((u.live a.target).recovery.toNat * 4))
      ∧ (∀ x : Target, x ≠ a.target → t.dbe.recovery[x] = u.dbe.recovery[x])
      ∧ ((∃ pn, a.request = .entry pn) → t.dbe.turnaround = u.dbe.turnaround)
      ∧ ((∀ pn, a.request ≠ .entry pn) → t.dbe.turnaround =
          if u.bc.config.turnaround = 0 then u.dbe.turnaround
          else some u.bc.config.turnaround.toNat))
    ∧ ∀ (s : State) (a : Access), let u := arrive s
    u.dbe.access = some a → a.phase = .hold → u.bc.state = .clearing →
      exec .accessEnd s = .next (freeBus a u)

/-- A write entry's access ends Done, no comparator firing: its low half leaves it Low Done, and its
whole access or high half retires it (R35, R36). -/
def Obligations.WriteAccessDone : Prop :=
  ∀ (s : State) (a : Access) (pn : PN) (e : WriteEntry), let u := arrive s
    let after : State := { freeBus a u with wu := u.wu.map fun c : Comparator => c.after a }
    endsWith u a .done → a.request = .entry pn → u.wq.find pn = some e → noneFires u a →
      (a.half = .low → exec .accessEnd s = .next { after with
        wq := withChanged pn (fun x => { x with progress := .lowDone }) u.wq })
      ∧ (a.half ≠ .low → exec .accessEnd s = .next (leaveQueue [pn] false after))

/-- A write entry's access ends Timeout: the entry is failed and goes back to what is left to do, its
Open target is Halted with this fault record, and a Write Fault notice is offered; a held write or
Waiting held read of the target ends with bus error, its notice offered before or after that one
(R10, R12, R32, R35, R84, R103). -/
def Obligations.WriteAccessTimeout : Prop :=
  ∀ (s : State) (a : Access) (pn : PN) (e : WriteEntry), let u := arrive s
    let fault : Notice := .writeFault e.target pn a.address a.lanes a.data .timeout
    let after : State := { freeBus a u with
      wq := withChanged pn (fun x => { x with
        progress := (if a.half = Half.high then .lowDone else .queued), failed := true }) u.wq
      targets := u.targets.set a.target { u.targets[a.target] with
        admission := .halted (.writeTimeout pn a.address a.lanes a.data) } }
    endsWith u a .timeout → a.request = .entry pn → u.wq.find pn = some e →
    u.admission a.target = .opened →
      (holdsNoneOf u a.target →
        ∃ n, exec .accessEnd s = .next { after with nq := u.nq.offer fault, choices := n })
      ∧ (∀ w, u.heldWrite? = some w → w.target = a.target →
          let refused : Notice := .refused a.target w.offset .halted .write
          ∃ n nq, (nq = (u.nq.offer fault).offer refused ∨ nq = (u.nq.offer refused).offer fault)
            ∧ exec .accessEnd s = .next { after with
              nq := nq, choices := n
              hif := { u.hif with
                held := none, holdTimer := none, recheckDue := false
                replies := u.hif.replies ++ [.apertureWrite w.offset .busError] } })
      ∧ ∀ r, u.heldRead? = some r → r.target = a.target → r.phase = .waiting →
          nothingWaitsForDrain u →
          let ended : Notice := .readFault a.target r.offset r.lanes .halted
          ∃ n nq, (nq = (u.nq.offer fault).offer ended ∨ nq = (u.nq.offer ended).offer fault)
            ∧ exec .accessEnd s = .next { after with
              nq := nq, choices := n, ou := (depart [.heldRead] u).ou
              hif := { u.hif with
                held := none, holdTimer := none, recheckDue := false
                replies := u.hif.replies ++ [.apertureRead r.offset .busError] } }

/-- A timeout halts its Open target with the fault record of its access, whatever kind of request it
belonged to and whatever else the end brings about (R10, R12, R102). -/
def Obligations.TimeoutHaltsItsTarget : Prop :=
  ∀ (s t : State) (a : Access), let u := arrive s
    endsWith u a .timeout → u.admission a.target = .opened → exec .accessEnd s = .next t →
      (∀ pn, a.request = .entry pn →
        t.admission a.target = .halted (.writeTimeout pn a.address a.lanes a.data))
      ∧ (a.request = .heldRead → t.admission a.target = .halted (.readTimeout a.address a.lanes))
      ∧ (∀ k, a.request = .fetch k →
          t.admission a.target = .halted (.fetchTimeout a.address a.lanes k))
      ∧ ∀ x, x ≠ a.target → t.admission x = u.admission x

/-- The held read's access ends Done. With no comparator firing: its host cycle Open, the data goes to
the host, or after the low half the byte is kept and the read waits again; Ended, a Late Read notice
carries what was taken. With its low half a comparator of action Halt alone firing, its cycle Open: the
read ends with bus error and a Read Fault notice of cause Halted, in either order with the Watch Hit
(R69, R79, R80, R82, R84, R130). -/
def Obligations.HeldReadAccessDone : Prop :=
  ∀ (s : State) (a : Access) (r : HeldRead), let u := arrive s
    let after : State := { freeBus a u with wu := u.wu.map fun c : Comparator => c.after a }
    let bytes : LaneWord := if a.half = .high then (a.data &&& 0xFF00#16) ||| (r.keptLow.getD 0).setWidth 16
      else a.data
    let gone := { u.hif with held := none, holdTimer := none, recheckDue := false }
    endsWith u a .done → a.request = .heldRead → u.heldRead? = some r →
      (noneFires u a → r.cycle = .opened → a.half ≠ .low → exec .accessEnd s = .next { after with
        ou := (depart [.heldRead] u).ou
        hif := { gone with
          replies := u.hif.replies ++ [.apertureRead r.offset (.ready (bytes.setWidth 32))] } })
      ∧ (noneFires u a → r.cycle = .opened → a.half = .low →
          (∀ fault, u.admission r.target ≠ .halted fault) →
          exec .accessEnd s = .next { after with hif := { u.hif with held := some (.read { r with
            phase := .waiting, lowHalfDone := true, keptLow := some (a.data.extractLsb' 0 8) }) } })
      ∧ (noneFires u a → r.cycle = .ended → nothingWaitsForDrain u →
          exec .accessEnd s = .next { after with
            ou := (depart [.heldRead] u).ou, hif := gone
            nq := u.nq.offer (if a.half = .low then .lateRead r.target r.offset .low a.data
              else .lateRead r.target r.offset r.lanes bytes) })
      ∧ ∀ n : ComparatorNo, u.wu[n].fires a = true → u.wu[n].action = .halt →
          (∀ m : ComparatorNo, m ≠ n → u.wu[m].fires a = false) →
          r.cycle = .opened → a.half = .low → r.target = a.target →
          u.admission a.target = .opened → nothingWaitsForDrain u →
          let hit : Notice := .watchHit n a.target a.address a.lanes a.data .read none true
          let ended : Notice := .readFault r.target r.offset r.lanes .halted
          ∃ choices nq, (nq = (u.nq.offer hit).offer ended ∨ nq = (u.nq.offer ended).offer hit)
            ∧ exec .accessEnd s = .next { after with
              nq := nq, choices := choices, ou := (depart [.heldRead] u).ou
              targets := u.targets.set a.target { u.targets[a.target] with
                admission := .halted (.watch none a.address a.lanes a.data n) }
              hif := { gone with
                replies := u.hif.replies ++ [.apertureRead r.offset .busError] } }

/-- The held read's access ends Timeout: the read fails as a whole, with bus error if its host cycle
is still Open, a Read Fault notice, and its Open target Halted (R12, R83). -/
def Obligations.HeldReadAccessTimeout : Prop :=
  ∀ (s : State) (a : Access) (r : HeldRead), let u := arrive s
    endsWith u a .timeout → a.request = .heldRead → u.heldRead? = some r →
    u.admission a.target = .opened → nothingWaitsForDrain u →
      ∃ n, exec .accessEnd s = .next { freeBus a u with
        ou := (depart [.heldRead] u).ou, choices := n
        targets := u.targets.set a.target { u.targets[a.target] with
          admission := .halted (.readTimeout a.address a.lanes) }
        hif := { u.hif with
          held := none, holdTimer := none, recheckDue := false
          replies := if r.cycle = .opened then
            u.hif.replies ++ [.apertureRead r.offset .busError] else u.hif.replies }
        nq := u.nq.offer (.readFault r.target r.offset r.lanes .timeout) }

/-- A fetch's access ends Done, no comparator firing: Issued, its low half is kept and it waits again,
and its last access completes it, with a notice where asked for; Cancelling, the slot goes Free
without one (R69, R93, R94, R96, R98). -/
def Obligations.FetchAccessDone : Prop :=
  ∀ (s : State) (a : Access) (k : SlotNo), let u := arrive s; let r := u.fs[k]
    let after : State := { freeBus a u with wu := u.wu.map fun c : Comparator => c.after a }
    let bytes : LaneWord := if a.half = .high then (a.data &&& 0xFF00#16) ||| (r.data &&& 0x00FF#16)
      else a.data
    endsWith u a .done → a.request = .fetch k → noneFires u a →
      (r.state = .issued → a.half = .low → exec .accessEnd s = .next { after with
        fs := u.fs.set k { r with state := .waiting, lowHalfDone := true, data := a.data } })
      ∧ (r.state = .issued → a.half ≠ .low → r.notify = false ∨ nothingWaitsForDrain u →
          exec .accessEnd s = .next { after with
            fs := u.fs.set k { r with
              state := .done, result := .done, data := bytes, lowHalfDone := false }
            ou := (depart [.fetch k] u).ou
            nq := if r.notify then u.nq.offer (.fetchDone k r.target r.offset bytes) else u.nq })
      ∧ (r.state = .cancelling → exec .accessEnd s = .next { after with
          fs := u.fs.set k { FetchSlot.powerOn with refused := r.refused }
          ou := (depart [.fetch k] u).ou })

/-- A fetch's access ends Timeout: Issued, the slot goes to Failed, with a notice where asked for;
Cancelling, it goes Free without one; its Open target is Halted either way. A held write or Waiting
held read of the target ends with bus error, its notice before or after the slot's; any other held
cycle is left (R12, R32, R84, R95, R96, R98). -/
def Obligations.FetchAccessTimeout : Prop :=
  ∀ (s : State) (a : Access) (k : SlotNo), let u := arrive s; let r := u.fs[k]
    let slot : FetchSlot := if r.state = .issued then
        { r with state := .failed, result := .timeout, data := 0, lowHalfDone := false }
      else { FetchSlot.powerOn with refused := r.refused }
    let failed : List Notice :=
      if r.state = .issued ∧ r.notify = true then [.fetchFailed k (some r.target) .timeout] else []
    let after : State := { freeBus a u with
      ou := (depart [.fetch k] u).ou
      fs := u.fs.set k slot
      targets := u.targets.set a.target { u.targets[a.target] with
        admission := .halted (.fetchTimeout a.address a.lanes k) } }
    let offered (q : NoticeQueue) (notices : List Notice) : NoticeQueue := notices.foldl (·.offer ·) q
    let gone := { u.hif with held := none, holdTimer := none, recheckDue := false }
    endsWith u a .timeout → a.request = .fetch k → u.admission a.target = .opened →
    nothingWaitsForDrain u → r.state = .issued ∨ r.state = .cancelling →
      (holdsNoneOf u a.target →
        ∃ n, exec .accessEnd s = .next { after with nq := offered u.nq failed, choices := n })
      ∧ (∀ w, u.heldWrite? = some w → w.target = a.target →
          let ended : Notice := .refused a.target w.offset .halted .write
          ∃ n nq, (nq = offered u.nq (failed ++ [ended]) ∨ nq = offered u.nq (ended :: failed))
            ∧ exec .accessEnd s = .next { after with
              nq := nq, choices := n
              hif := { gone with
                replies := u.hif.replies ++ [.apertureWrite w.offset .busError] } })
      ∧ ∀ h, u.heldRead? = some h → h.target = a.target → h.phase = .waiting →
          let ended : Notice := .readFault a.target h.offset h.lanes .halted
          ∃ n nq, (nq = offered u.nq (failed ++ [ended]) ∨ nq = offered u.nq (ended :: failed))
            ∧ exec .accessEnd s = .next { after with
              nq := nq, choices := n, ou := (depart [.fetch k, .heldRead] u).ou
              hif := { gone with
                replies := u.hif.replies ++ [.apertureRead h.offset .busError] } }

/-! ## Watch comparators -/

/-- A comparator matches an access exactly when it is armed, its kind takes the access in, and a byte
the access carries lies in its naturally aligned range; a match lowers the remaining count by one and
at 0 the comparator fires, starting the count again with repeat on and disarmed with repeat off
(R123, R126, R127). -/
def Obligations.ComparatorMatchAndCount : Prop :=
  ∀ (c : Comparator) (a : Access),
    (c.matchesAccess a = true ↔ c.armed = true
      ∧ (c.kind = .any ∨ c.kind = .write ∧ (∃ pn, a.request = .entry pn)
          ∨ c.kind = .read ∧ ∀ pn, a.request ≠ .entry pn)
      ∧ ∃ o : Nat, (o = a.address.toNat ∨ a.lanes = .both ∧ o = a.address.toNat + 1)
          ∧ ((c.size = .one ∧ o = c.offset.toNat)
            ∨ (c.size = .two ∧ o / 2 = c.offset.toNat / 2)
            ∨ (c.size = .four ∧ o / 4 = c.offset.toNat / 4)))
    ∧ (c.matchesAccess a = false → c.fires a = false ∧ c.after a = c)
    ∧ (c.matchesAccess a = true → c.remaining ≠ 1 →
        c.fires a = false ∧ c.after a = { c with remaining := c.remaining - 1 })
    ∧ (c.matchesAccess a = true → c.remaining = 1 →
        c.fires a = true
        ∧ (c.repeats = true → c.after a = { c with remaining := c.count })
        ∧ (c.repeats = false → c.after a = { c with remaining := 0, armed := false }))

namespace Sys2Proof

/-- The Watch Hit notices of an access's end: one for each comparator that fires on it, in comparator
order, its halted flag by its action (R128, R131). -/
def hitsOn (u : State) (a : Access) : List Notice :=
  (([0, 1, 2, 3] : List ComparatorNo).filter fun n => u.wu[n].fires a).map fun n =>
    .watchHit n a.target a.address a.lanes a.data
      (match a.request with | .entry _ => .write | .heldRead => .read | .fetch _ => .fetch)
      (match a.request with | .entry pn => some pn | .heldRead | .fetch _ => none)
      (decide (u.wu[n].action = .halt))

/-- The comparator whose halt the TT records: of those with action Halt that fire, the first in
comparator order (R131). -/
def haltingOn (u : State) (a : Access) : Option ComparatorNo :=
  ([0, 1, 2, 3] : List ComparatorNo).find? fun n =>
    u.wu[n].fires a && decide (u.wu[n].action = .halt)

/-- The targets after an access's end: the access's own Halted with cause Watch where a comparator
halts it (R129, R131). -/
def watchedTargets (u : State) (a : Access) : Vector TargetEntry 8 :=
  match haltingOn u a with
  | none => u.targets
  | some n => u.targets.set a.target { u.targets[a.target] with admission := .halted (.watch
      (match a.request with | .entry pn => some pn | .heldRead | .fetch _ => none)
      a.address a.lanes a.data n) }

end Sys2Proof

/-- Firing. Of the comparators with action Halt that fire on an access, the first in comparator order
halts its Open target, in every order of the other effects. Where the end itself, the comparators
disarmed, offers no notice and makes nothing due, and a halt ends no held cycle, firing adds to what
the end does only the counting, every Watch Hit in comparator order, and the one halt: so a fetch's
or entry's low half goes on as it would. And where one comparator halts the target of a held write
for which the end makes room, the HIF takes either first: the write is entered, or it is refused with
cause Halted (R32, R93, R128 to R131). -/
def Obligations.WatchFiring : Prop :=
  (∀ (s : State) (a : Access) (n : ComparatorNo), let u := arrive s
    endsWith u a .done → haltingOn u a = some n → u.admission a.target = .opened →
        ∃ t, exec .accessEnd s = .next t
          ∧ (∀ pn, a.request = .entry pn → t.admission a.target =
              .halted (.watch (some pn) a.address a.lanes a.data n))
          ∧ ((∀ pn, a.request ≠ .entry pn) → t.admission a.target =
              .halted (.watch none a.address a.lanes a.data n))
          ∧ ∀ x : Target, x ≠ a.target → t.admission x = u.admission x)
    ∧ (∀ (s t : State) (a : Access), let u := arrive s
      let quiet : State := { u with wu := u.wu.map fun c => { c with armed := false } }
      endsWith u a .done → u.admission a.target = .opened →
      (a.request = .heldRead → ∀ r, u.heldRead? = some r → r.cycle = .opened ∧ r.target = a.target) →
      (∀ k, a.request = .fetch k →
        a.half = .low ∨ u.fs[k].notify = false ∨ u.fs[k].state = .cancelling) →
      (freeBus a u).departureDues = [] → exec .accessEnd quiet = .next t → t.departureDues = [] →
      haltingOn u a = none ∨ holdsNoneOf u a.target ∧ holdsNoneOf t a.target →
        ∃ choices, exec .accessEnd s = .next { t with
          choices := choices
          wu := u.wu.map fun c : Comparator => c.after a
          targets := watchedTargets u a
          nq := (hitsOn u a).foldl (·.offer ·) u.nq
          hif := { t.hif with replies := u.hif.replies ++ t.hif.replies } })
    ∧ ∀ (s : State) (a : Access) (n : ComparatorNo) (pn : PN) (e : WriteEntry) (w : HeldWrite),
      let u := arrive s
      let left := leaveQueue [pn] false { freeBus a u with
        wu := u.wu.map fun c : Comparator => c.after a, targets := watchedTargets u a }
      let free := { left.hif with held := none, holdTimer := none, recheckDue := false }
      let hit : Notice := .watchHit n a.target a.address a.lanes a.data .write (some pn) true
      let refused : Notice := .refused w.target w.offset .halted .write
      endsWith u a .done → a.request = .entry pn → u.wq.find pn = some e → a.half ≠ .low →
      haltingOn u a = some n → hitsOn u a = [hit] → u.heldWrite? = some w → w.target = a.target →
      u.admission a.target = .opened → u.bc.state = .running →
      left.departureDues = [.recheck] → hasRoom left.wq →
        ∃ choices,
          exec .accessEnd s = .next { withWriteEntered w.target w.offset w.lanes w.data left with
              choices := choices, nq := u.nq.offer hit
              hif := { free with
                replies := u.hif.replies ++ [.apertureWrite w.offset (.ready 0)] } }
          ∨ ∃ nq, (nq = (u.nq.offer hit).offer refused ∨ nq = (u.nq.offer refused).offer hit)
            ∧ exec .accessEnd s = .next { left with
              choices := choices, nq := nq
              hif := { free with
                replies := u.hif.replies ++ [.apertureWrite w.offset .busError] } }

/-! ## Fences, attention lines, notices -/

/-- The oldest fence whose wait-set is empty retires: its PN goes to Last Fence Retired, it leaves the
queue, and with notify yes its notice is offered (R22, R36, R56). -/
def Obligations.FenceRetires : Prop :=
  ∀ (s : State) (f : FenceEntry) (older younger : List QueueEntry) (r : PresentRequest),
    let u := newStep s
    let left := leaveQueue [f.pn] false { u with wq := { u.wq with lastFenceRetired := f.pn } }
    s.bc.state ≠ .clearing → s.wq.entries = older ++ .fence f :: younger →
    s.requestOf (.entry f.pn) = some r → r.waitSet = [] →
    (∀ g, QueueEntry.fence g ∈ older → ∀ q, s.requestOf (.entry g.pn) = some q → q.waitSet ≠ []) →
      (f.notify = false → exec .fenceRetired s = .next left)
      ∧ (f.notify = true → (∀ d ∈ left.departureDues, d = .fence) →
          exec .fenceRetired s = .next { left with nq := s.nq.offer (.fenceRetired f.pn) })

/-- An edge of an attention input replaces the kept level. It is an event where the target is enabled
and its live mode selects it: with ordering off, or no write entry of the target present, a notice at
once; behind write entries a held record, or one more in its count up to 15 (R115 to R119). A row
that names the other kind of edge does nothing (assumption 4). -/
def Obligations.AttentionEdges : Prop :=
  ∀ (s : State) (t : Target), let u := arrive s
    let mode := (u.live t).attentionMode
    let kept := u.au[t].high
    let event : Prop := u.admission t ≠ .disabled
      ∧ (mode = .both ∨ mode = .rising ∧ kept = false ∨ mode = .falling ∧ kept = true)
    let input (record : Option AttentionRecord) : Vector AttentionInput 8 :=
      u.au.set t { high := !kept, record := record }
    let writes : List PN := u.wq.entries.filterMap fun
      | .write e => if e.target = t then some e.pn else none
      | .fence _ => none
    let atOnce : Host.Outcome State Fault Refusal :=
      .next { u with au := input u.au[t].record, nq := u.nq.offer (.attention t 1 false) }
    (¬ event → exec (.attentionInputEdge t) s = .next { u with au := input u.au[t].record }
      ∧ exec (.attentionEvent t) s = .next u)
    ∧ (event → exec (.attentionInputEdge t) s = .next u
        ∧ ((u.live t).attentionOrdering = false → exec (.attentionEvent t) s = atOnce)
        ∧ ((u.live t).attentionOrdering = true →
            (u.au[t].record = none → writes = [] → exec (.attentionEvent t) s = atOnce)
            ∧ (u.au[t].record = none → writes ≠ [] → exec (.attentionEvent t) s = .next { u with
                au := input (some { count := 1, writesDropped := false, waitSet := writes }) })
            ∧ ∀ r, u.au[t].record = some r → exec (.attentionEvent t) s = .next { u with
                au := input (some { r with count := if r.count = 15 then 15 else r.count + 1 }) }))

/-- A held attention record whose wait-set has emptied is removed and its notice offered (R120); and
the drain condition, holding while the bridge is Quiescing, makes it Quiesced with its notice
(R147). -/
def Obligations.RecordReleasedAndQuiesced : Prop :=
  ∀ s : State, let u := newStep s
    (∀ (t : Target) (r : AttentionRecord), s.au[t].record = some r → r.waitSet = [] →
      let left := { u with au := s.au.set t { high := s.au[t].high, record := none } }
      (∀ d ∈ left.departureDues, ∃ x, d = .attention x) →
        exec (.attentionRecordReleased t) s = .next { left with
          nq := s.nq.offer (.attention t r.count r.writesDropped) })
    ∧ (s.bc.state = .quiescing → s.wq.entries = [] → s.heldRead? = none → s.dbe.access = none →
        (∀ k : SlotNo, s.fs[k].state = .free ∨ s.fs[k].state = .done ∨ s.fs[k].state = .failed) →
        let left := { u with bc := { s.bc with state := .quiesced } }
        left.departureDues = [] →
          exec .quiesced s = .next { left with nq := s.nq.offer .quiesced })

/-- What the Notice Queue does with an offer: the kind's indication is set; a Summary-only kind goes no
further; else it is entered with the next sequence number below fifteen records, becomes an Overflow
record of count 1 at fifteen, and is counted into an Overflow record already present, up to 255. The
interrupt line is asserted exactly while a record is present and interrupt enable is on
(R134, R137, R140). -/
def Obligations.NoticeOfferAndInterruptLine : Prop :=
  (∀ (q : NoticeQueue) (n : Notice),
      let summary := q.summary ||| (1#32 <<< n.code)
      let overflowed : Prop := ∃ older sequence count,
        q.records = older ++ [⟨sequence, .overflow count⟩]
      (q.select.getLsbD n.code = true → q.offer n = { q with summary := summary })
      ∧ (q.select.getLsbD n.code = false →
          (¬ overflowed → q.records.length < 15 → q.offer n = { q with
            records := q.records ++ [⟨q.sequence, .notice n⟩]
            sequence := q.sequence + 1, summary := summary })
          ∧ (¬ overflowed → 15 ≤ q.records.length → q.offer n = { q with
              records := q.records ++ [⟨q.sequence, .overflow 1⟩]
              sequence := q.sequence + 1, summary := summary ||| 0x00001000#32 })
          ∧ ∀ older sequence count, q.records = older ++ [⟨sequence, .overflow count⟩] →
              q.offer n = { q with
                records := older ++ [⟨sequence, .overflow (if count = 255 then 255 else count + 1)⟩]
                summary := summary }))
    ∧ ∀ s : State, s.interruptLine = true ↔ s.nq.records ≠ [] ∧ s.bc.config.interruptEnable = true

/-! ## Invariants of the part -/

/-- After power-on reset every invariant holds, and nothing is due. -/
def Obligations.ResetMeetsInvariants : Prop :=
  NoticeQueueWf State.reset.nq ∧ WriteQueueWf State.reset.wq ∧ WindowsWf State.reset
    ∧ AccessInFlightWf State.reset ∧ ComparatorsWf State.reset ∧ HoldWf State.reset
    ∧ AttentionRecordsWf State.reset ∧ OrderWf State.reset ∧ OwnersWf State.reset
    ∧ Settled State.reset

/-- Every step keeps the Notice Queue's form: at most sixteen records, successive sequence numbers, an
Overflow record only as the youngest (R134, R137). -/
def Obligations.StepKeepsNoticeQueueWf : Prop :=
  ∀ s t : State, NoticeQueueWf s.nq → step s = .next t → NoticeQueueWf t.nq

/-- Every step keeps the write queue's form: at most eight entries, with distinct posting numbers, none
of them 0 (R19, R20). -/
def Obligations.StepKeepsWriteQueueWf : Prop :=
  ∀ s t : State, WriteQueueWf s.wq → step s = .next t → WriteQueueWf t.wq

/-- Every step keeps the enabled targets' live windows aligned, with nonzero strobe and timeout, and
without a common offset (R3, R4). -/
def Obligations.StepKeepsWindowsWf : Prop :=
  ∀ s t : State, WindowsWf s → step s = .next t → WindowsWf t

/-- Every step keeps: an access in flight has an Open target out of recovery and no turnaround running
(R71, R72, R102); an armed comparator has matches still to be seen (R123, R127); the hold timer runs
exactly while a held host cycle is Open (R29, R78, R82); a held attention record counts 1 to 15 events
of an enabled target and waits for write entries of it that are present (R118 to R121). -/
def Obligations.StepKeepsAccessHoldAndRecordWf : Prop :=
  ∀ s t : State, step s = .next t →
    (AccessInFlightWf s → AccessInFlightWf t) ∧ (ComparatorsWf s → ComparatorsWf t)
    ∧ (HoldWf s → HoldWf t) ∧ (AttentionRecordsWf s → AttentionRecordsWf t)

/-- Every step keeps the Order Unit's invariant: the present set is what the queue, the held read and
the fetch slots hold, for enabled targets, and every wait-set is what R43 gave it, less what has
departed (R40 to R45). -/
def Obligations.StepKeepsOrderWf : Prop :=
  ∀ s t : State, OrderWf s → step s = .next t → OrderWf t

/-- Every step keeps: the access in flight belongs to a present request of its target, which alone its
owner shows Issued (section 4.1, R60); and a write entry is failed exactly while its target is Halted
by Write Timeout with a fault record that names it (R105). -/
def Obligations.StepKeepsOwnersWf : Prop :=
  ∀ s t : State, OwnersWf s → step s = .next t → OwnersWf t
end

