-- ==== Sys2Proof/Laws/State.lean ====
section
/-! SUPPORT. What each named update of the state leaves in each field: one lemma a field, true by
rfl, so that no proof unfolds a record update. -/

namespace Sys2Proof.Machine

variable (s : State)

/-! ## newStep -/

@[simp] theorem newStep_pending : (newStep s).pending = s.pending := rfl
@[simp] theorem newStep_targets : (newStep s).targets = s.targets := rfl
@[simp] theorem newStep_wq : (newStep s).wq = s.wq := rfl
@[simp] theorem newStep_ou : (newStep s).ou = s.ou := rfl
@[simp] theorem newStep_hif : (newStep s).hif = { s.hif with replies := [] } := rfl
@[simp] theorem newStep_bc : (newStep s).bc = s.bc := rfl
@[simp] theorem newStep_fs : (newStep s).fs = s.fs := rfl
@[simp] theorem newStep_dbe : (newStep s).dbe = s.dbe := rfl
@[simp] theorem newStep_au : (newStep s).au = s.au := rfl
@[simp] theorem newStep_wu : (newStep s).wu = s.wu := rfl
@[simp] theorem newStep_nq : (newStep s).nq = s.nq := rfl
@[simp] theorem newStep_choices : (newStep s).choices = s.choices := rfl
@[simp] theorem newStep_freed : (newStep s).freed = s.freed := rfl

/-! ## newArrival -/

@[simp] theorem newArrival_pending : (newArrival s).pending = s.pending := rfl
@[simp] theorem newArrival_targets : (newArrival s).targets = s.targets := rfl
@[simp] theorem newArrival_wq : (newArrival s).wq = s.wq := rfl
@[simp] theorem newArrival_ou : (newArrival s).ou = s.ou := rfl
@[simp] theorem newArrival_hif : (newArrival s).hif = s.hif := rfl
@[simp] theorem newArrival_bc : (newArrival s).bc = s.bc := rfl
@[simp] theorem newArrival_fs : (newArrival s).fs = s.fs := rfl
@[simp] theorem newArrival_dbe : (newArrival s).dbe = s.dbe := rfl
@[simp] theorem newArrival_au : (newArrival s).au = s.au := rfl
@[simp] theorem newArrival_wu : (newArrival s).wu = s.wu := rfl
@[simp] theorem newArrival_nq : (newArrival s).nq = s.nq := rfl
@[simp] theorem newArrival_choices : (newArrival s).choices = s.choices := rfl
@[simp] theorem newArrival_freed : (newArrival s).freed = none := rfl

/-! ## markFreed -/

@[simp] theorem markFreed_pending : (markFreed s).pending = s.pending := rfl
@[simp] theorem markFreed_targets : (markFreed s).targets = s.targets := rfl
@[simp] theorem markFreed_wq : (markFreed s).wq = s.wq := rfl
@[simp] theorem markFreed_ou : (markFreed s).ou = s.ou := rfl
@[simp] theorem markFreed_hif : (markFreed s).hif = s.hif := rfl
@[simp] theorem markFreed_bc : (markFreed s).bc = s.bc := rfl
@[simp] theorem markFreed_fs : (markFreed s).fs = s.fs := rfl
@[simp] theorem markFreed_dbe : (markFreed s).dbe = s.dbe := rfl
@[simp] theorem markFreed_au : (markFreed s).au = s.au := rfl
@[simp] theorem markFreed_wu : (markFreed s).wu = s.wu := rfl
@[simp] theorem markFreed_nq : (markFreed s).nq = s.nq := rfl
@[simp] theorem markFreed_choices : (markFreed s).choices = s.choices := rfl
@[simp] theorem markFreed_freed : (markFreed s).freed = s.freed.or (some .other) := rfl

/-! ## reply -/

@[simp] theorem reply_pending (r : HostReply) : (reply r s).pending = s.pending := rfl
@[simp] theorem reply_targets (r : HostReply) : (reply r s).targets = s.targets := rfl
@[simp] theorem reply_wq (r : HostReply) : (reply r s).wq = s.wq := rfl
@[simp] theorem reply_ou (r : HostReply) : (reply r s).ou = s.ou := rfl
@[simp] theorem reply_hif (r : HostReply) : (reply r s).hif = { s.hif with replies := s.hif.replies ++ [r] } := rfl
@[simp] theorem reply_bc (r : HostReply) : (reply r s).bc = s.bc := rfl
@[simp] theorem reply_fs (r : HostReply) : (reply r s).fs = s.fs := rfl
@[simp] theorem reply_dbe (r : HostReply) : (reply r s).dbe = s.dbe := rfl
@[simp] theorem reply_au (r : HostReply) : (reply r s).au = s.au := rfl
@[simp] theorem reply_wu (r : HostReply) : (reply r s).wu = s.wu := rfl
@[simp] theorem reply_nq (r : HostReply) : (reply r s).nq = s.nq := rfl
@[simp] theorem reply_choices (r : HostReply) : (reply r s).choices = s.choices := rfl
@[simp] theorem reply_freed (r : HostReply) : (reply r s).freed = s.freed := rfl

/-! ## registerReady -/

@[simp] theorem registerReady_pending : (registerReady s).pending = s.pending := rfl
@[simp] theorem registerReady_targets : (registerReady s).targets = s.targets := rfl
@[simp] theorem registerReady_wq : (registerReady s).wq = s.wq := rfl
@[simp] theorem registerReady_ou : (registerReady s).ou = s.ou := rfl
@[simp] theorem registerReady_hif : (registerReady s).hif = { s.hif with replies := s.hif.replies ++ [.registerWindow (.ready 0)] } := rfl
@[simp] theorem registerReady_bc : (registerReady s).bc = s.bc := rfl
@[simp] theorem registerReady_fs : (registerReady s).fs = s.fs := rfl
@[simp] theorem registerReady_dbe : (registerReady s).dbe = s.dbe := rfl
@[simp] theorem registerReady_au : (registerReady s).au = s.au := rfl
@[simp] theorem registerReady_wu : (registerReady s).wu = s.wu := rfl
@[simp] theorem registerReady_nq : (registerReady s).nq = s.nq := rfl
@[simp] theorem registerReady_choices : (registerReady s).choices = s.choices := rfl
@[simp] theorem registerReady_freed : (registerReady s).freed = s.freed := rfl

/-! ## offer -/

@[simp] theorem offer_pending (n : Notice) : (offer n s).pending = s.pending := rfl
@[simp] theorem offer_targets (n : Notice) : (offer n s).targets = s.targets := rfl
@[simp] theorem offer_wq (n : Notice) : (offer n s).wq = s.wq := rfl
@[simp] theorem offer_ou (n : Notice) : (offer n s).ou = s.ou := rfl
@[simp] theorem offer_hif (n : Notice) : (offer n s).hif = s.hif := rfl
@[simp] theorem offer_bc (n : Notice) : (offer n s).bc = s.bc := rfl
@[simp] theorem offer_fs (n : Notice) : (offer n s).fs = s.fs := rfl
@[simp] theorem offer_dbe (n : Notice) : (offer n s).dbe = s.dbe := rfl
@[simp] theorem offer_au (n : Notice) : (offer n s).au = s.au := rfl
@[simp] theorem offer_wu (n : Notice) : (offer n s).wu = s.wu := rfl
@[simp] theorem offer_nq (n : Notice) : (offer n s).nq = s.nq.offer n := rfl
@[simp] theorem offer_choices (n : Notice) : (offer n s).choices = s.choices := rfl
@[simp] theorem offer_freed (n : Notice) : (offer n s).freed = s.freed := rfl

/-! ## depart -/

@[simp] theorem depart_pending (ids : List RequestId) : (depart ids s).pending = s.pending := rfl
@[simp] theorem depart_targets (ids : List RequestId) : (depart ids s).targets = s.targets := rfl
@[simp] theorem depart_wq (ids : List RequestId) : (depart ids s).wq = s.wq := rfl
@[simp] theorem depart_ou (ids : List RequestId) : (depart ids s).ou = strike ids s.ou := rfl
@[simp] theorem depart_hif (ids : List RequestId) : (depart ids s).hif = s.hif := rfl
@[simp] theorem depart_bc (ids : List RequestId) : (depart ids s).bc = s.bc := rfl
@[simp] theorem depart_fs (ids : List RequestId) : (depart ids s).fs = s.fs := rfl
@[simp] theorem depart_dbe (ids : List RequestId) : (depart ids s).dbe = s.dbe := rfl
@[simp] theorem depart_au (ids : List RequestId) : (depart ids s).au = s.au := rfl
@[simp] theorem depart_wu (ids : List RequestId) : (depart ids s).wu = s.wu := rfl
@[simp] theorem depart_nq (ids : List RequestId) : (depart ids s).nq = s.nq := rfl
@[simp] theorem depart_choices (ids : List RequestId) : (depart ids s).choices = s.choices := rfl
@[simp] theorem depart_freed (ids : List RequestId) : (depart ids s).freed = s.freed.or (some .other) := rfl

/-! ## arriveRequest -/

@[simp] theorem arriveRequest_pending (id : RequestId) (x : Option Target) : (arriveRequest id x s).pending = s.pending := rfl
@[simp] theorem arriveRequest_targets (id : RequestId) (x : Option Target) : (arriveRequest id x s).targets = s.targets := rfl
@[simp] theorem arriveRequest_wq (id : RequestId) (x : Option Target) : (arriveRequest id x s).wq = s.wq := rfl
@[simp] theorem arriveRequest_ou (id : RequestId) (x : Option Target) : (arriveRequest id x s).ou = s.ou ++ [⟨id, x, s.waitSetOf x⟩] := rfl
@[simp] theorem arriveRequest_hif (id : RequestId) (x : Option Target) : (arriveRequest id x s).hif = s.hif := rfl
@[simp] theorem arriveRequest_bc (id : RequestId) (x : Option Target) : (arriveRequest id x s).bc = s.bc := rfl
@[simp] theorem arriveRequest_fs (id : RequestId) (x : Option Target) : (arriveRequest id x s).fs = s.fs := rfl
@[simp] theorem arriveRequest_dbe (id : RequestId) (x : Option Target) : (arriveRequest id x s).dbe = s.dbe := rfl
@[simp] theorem arriveRequest_au (id : RequestId) (x : Option Target) : (arriveRequest id x s).au = s.au := rfl
@[simp] theorem arriveRequest_wu (id : RequestId) (x : Option Target) : (arriveRequest id x s).wu = s.wu := rfl
@[simp] theorem arriveRequest_nq (id : RequestId) (x : Option Target) : (arriveRequest id x s).nq = s.nq := rfl
@[simp] theorem arriveRequest_choices (id : RequestId) (x : Option Target) : (arriveRequest id x s).choices = s.choices := rfl
@[simp] theorem arriveRequest_freed (id : RequestId) (x : Option Target) : (arriveRequest id x s).freed = s.freed := rfl

/-! ## hold -/

@[simp] theorem hold_pending (a : HeldAccess) : (hold a s).pending = s.pending := rfl
@[simp] theorem hold_targets (a : HeldAccess) : (hold a s).targets = s.targets := rfl
@[simp] theorem hold_wq (a : HeldAccess) : (hold a s).wq = s.wq := rfl
@[simp] theorem hold_ou (a : HeldAccess) : (hold a s).ou = s.ou := rfl
@[simp] theorem hold_hif (a : HeldAccess) : (hold a s).hif = { s.hif with held := some a, holdTimer := some s.bc.config.holdDP, recheckDue := false } := rfl
@[simp] theorem hold_bc (a : HeldAccess) : (hold a s).bc = s.bc := rfl
@[simp] theorem hold_fs (a : HeldAccess) : (hold a s).fs = s.fs := rfl
@[simp] theorem hold_dbe (a : HeldAccess) : (hold a s).dbe = s.dbe := rfl
@[simp] theorem hold_au (a : HeldAccess) : (hold a s).au = s.au := rfl
@[simp] theorem hold_wu (a : HeldAccess) : (hold a s).wu = s.wu := rfl
@[simp] theorem hold_nq (a : HeldAccess) : (hold a s).nq = s.nq := rfl
@[simp] theorem hold_choices (a : HeldAccess) : (hold a s).choices = s.choices := rfl
@[simp] theorem hold_freed (a : HeldAccess) : (hold a s).freed = s.freed := rfl

/-! ## endHold -/

@[simp] theorem endHold_pending : (endHold s).pending = s.pending := rfl
@[simp] theorem endHold_targets : (endHold s).targets = s.targets := rfl
@[simp] theorem endHold_wq : (endHold s).wq = s.wq := rfl
@[simp] theorem endHold_ou : (endHold s).ou = s.ou := rfl
@[simp] theorem endHold_hif : (endHold s).hif = { s.hif with held := none, holdTimer := none, recheckDue := false } := rfl
@[simp] theorem endHold_bc : (endHold s).bc = s.bc := rfl
@[simp] theorem endHold_fs : (endHold s).fs = s.fs := rfl
@[simp] theorem endHold_dbe : (endHold s).dbe = s.dbe := rfl
@[simp] theorem endHold_au : (endHold s).au = s.au := rfl
@[simp] theorem endHold_wu : (endHold s).wu = s.wu := rfl
@[simp] theorem endHold_nq : (endHold s).nq = s.nq := rfl
@[simp] theorem endHold_choices : (endHold s).choices = s.choices := rfl
@[simp] theorem endHold_freed : (endHold s).freed = s.freed := rfl

/-! ## setHeldRead -/

@[simp] theorem setHeldRead_pending (r : HeldRead) : (setHeldRead r s).pending = s.pending := rfl
@[simp] theorem setHeldRead_targets (r : HeldRead) : (setHeldRead r s).targets = s.targets := rfl
@[simp] theorem setHeldRead_wq (r : HeldRead) : (setHeldRead r s).wq = s.wq := rfl
@[simp] theorem setHeldRead_ou (r : HeldRead) : (setHeldRead r s).ou = s.ou := rfl
@[simp] theorem setHeldRead_hif (r : HeldRead) : (setHeldRead r s).hif = { s.hif with held := some (.read r) } := rfl
@[simp] theorem setHeldRead_bc (r : HeldRead) : (setHeldRead r s).bc = s.bc := rfl
@[simp] theorem setHeldRead_fs (r : HeldRead) : (setHeldRead r s).fs = s.fs := rfl
@[simp] theorem setHeldRead_dbe (r : HeldRead) : (setHeldRead r s).dbe = s.dbe := rfl
@[simp] theorem setHeldRead_au (r : HeldRead) : (setHeldRead r s).au = s.au := rfl
@[simp] theorem setHeldRead_wu (r : HeldRead) : (setHeldRead r s).wu = s.wu := rfl
@[simp] theorem setHeldRead_nq (r : HeldRead) : (setHeldRead r s).nq = s.nq := rfl
@[simp] theorem setHeldRead_choices (r : HeldRead) : (setHeldRead r s).choices = s.choices := rfl
@[simp] theorem setHeldRead_freed (r : HeldRead) : (setHeldRead r s).freed = s.freed := rfl

/-! ## dropHeldRead -/

@[simp] theorem dropHeldRead_pending : (dropHeldRead s).pending = s.pending := rfl
@[simp] theorem dropHeldRead_targets : (dropHeldRead s).targets = s.targets := rfl
@[simp] theorem dropHeldRead_wq : (dropHeldRead s).wq = s.wq := rfl
@[simp] theorem dropHeldRead_ou : (dropHeldRead s).ou = strike [.heldRead] s.ou := rfl
@[simp] theorem dropHeldRead_hif : (dropHeldRead s).hif = { s.hif with held := none, holdTimer := none, recheckDue := false } := rfl
@[simp] theorem dropHeldRead_bc : (dropHeldRead s).bc = s.bc := rfl
@[simp] theorem dropHeldRead_fs : (dropHeldRead s).fs = s.fs := rfl
@[simp] theorem dropHeldRead_dbe : (dropHeldRead s).dbe = s.dbe := rfl
@[simp] theorem dropHeldRead_au : (dropHeldRead s).au = s.au := rfl
@[simp] theorem dropHeldRead_wu : (dropHeldRead s).wu = s.wu := rfl
@[simp] theorem dropHeldRead_nq : (dropHeldRead s).nq = s.nq := rfl
@[simp] theorem dropHeldRead_choices : (dropHeldRead s).choices = s.choices := rfl
@[simp] theorem dropHeldRead_freed : (dropHeldRead s).freed = s.freed.or (some .other) := rfl

/-! ## setSlot -/

@[simp] theorem setSlot_pending (k : SlotNo) (r : FetchSlot) : (setSlot k r s).pending = s.pending := rfl
@[simp] theorem setSlot_targets (k : SlotNo) (r : FetchSlot) : (setSlot k r s).targets = s.targets := rfl
@[simp] theorem setSlot_wq (k : SlotNo) (r : FetchSlot) : (setSlot k r s).wq = s.wq := rfl
@[simp] theorem setSlot_ou (k : SlotNo) (r : FetchSlot) : (setSlot k r s).ou = s.ou := rfl
@[simp] theorem setSlot_hif (k : SlotNo) (r : FetchSlot) : (setSlot k r s).hif = s.hif := rfl
@[simp] theorem setSlot_bc (k : SlotNo) (r : FetchSlot) : (setSlot k r s).bc = s.bc := rfl
@[simp] theorem setSlot_fs (k : SlotNo) (r : FetchSlot) : (setSlot k r s).fs = s.fs.set k r := rfl
@[simp] theorem setSlot_dbe (k : SlotNo) (r : FetchSlot) : (setSlot k r s).dbe = s.dbe := rfl
@[simp] theorem setSlot_au (k : SlotNo) (r : FetchSlot) : (setSlot k r s).au = s.au := rfl
@[simp] theorem setSlot_wu (k : SlotNo) (r : FetchSlot) : (setSlot k r s).wu = s.wu := rfl
@[simp] theorem setSlot_nq (k : SlotNo) (r : FetchSlot) : (setSlot k r s).nq = s.nq := rfl
@[simp] theorem setSlot_choices (k : SlotNo) (r : FetchSlot) : (setSlot k r s).choices = s.choices := rfl
@[simp] theorem setSlot_freed (k : SlotNo) (r : FetchSlot) : (setSlot k r s).freed = s.freed := rfl

/-! ## setBridge -/

@[simp] theorem setBridge_pending (b : BridgeState) : (setBridge b s).pending = s.pending := rfl
@[simp] theorem setBridge_targets (b : BridgeState) : (setBridge b s).targets = s.targets := rfl
@[simp] theorem setBridge_wq (b : BridgeState) : (setBridge b s).wq = s.wq := rfl
@[simp] theorem setBridge_ou (b : BridgeState) : (setBridge b s).ou = s.ou := rfl
@[simp] theorem setBridge_hif (b : BridgeState) : (setBridge b s).hif = s.hif := rfl
@[simp] theorem setBridge_bc (b : BridgeState) : (setBridge b s).bc = { s.bc with state := b } := rfl
@[simp] theorem setBridge_fs (b : BridgeState) : (setBridge b s).fs = s.fs := rfl
@[simp] theorem setBridge_dbe (b : BridgeState) : (setBridge b s).dbe = s.dbe := rfl
@[simp] theorem setBridge_au (b : BridgeState) : (setBridge b s).au = s.au := rfl
@[simp] theorem setBridge_wu (b : BridgeState) : (setBridge b s).wu = s.wu := rfl
@[simp] theorem setBridge_nq (b : BridgeState) : (setBridge b s).nq = s.nq := rfl
@[simp] theorem setBridge_choices (b : BridgeState) : (setBridge b s).choices = s.choices := rfl
@[simp] theorem setBridge_freed (b : BridgeState) : (setBridge b s).freed = s.freed := rfl

/-! ## updateEntry -/

@[simp] theorem updateEntry_pending (pn : PN) (f : WriteEntry → WriteEntry) : (updateEntry pn f s).pending = s.pending := rfl
@[simp] theorem updateEntry_targets (pn : PN) (f : WriteEntry → WriteEntry) : (updateEntry pn f s).targets = s.targets := rfl
@[simp] theorem updateEntry_wq (pn : PN) (f : WriteEntry → WriteEntry) : (updateEntry pn f s).wq = s.wq.update pn f := rfl
@[simp] theorem updateEntry_ou (pn : PN) (f : WriteEntry → WriteEntry) : (updateEntry pn f s).ou = s.ou := rfl
@[simp] theorem updateEntry_hif (pn : PN) (f : WriteEntry → WriteEntry) : (updateEntry pn f s).hif = s.hif := rfl
@[simp] theorem updateEntry_bc (pn : PN) (f : WriteEntry → WriteEntry) : (updateEntry pn f s).bc = s.bc := rfl
@[simp] theorem updateEntry_fs (pn : PN) (f : WriteEntry → WriteEntry) : (updateEntry pn f s).fs = s.fs := rfl
@[simp] theorem updateEntry_dbe (pn : PN) (f : WriteEntry → WriteEntry) : (updateEntry pn f s).dbe = s.dbe := rfl
@[simp] theorem updateEntry_au (pn : PN) (f : WriteEntry → WriteEntry) : (updateEntry pn f s).au = s.au := rfl
@[simp] theorem updateEntry_wu (pn : PN) (f : WriteEntry → WriteEntry) : (updateEntry pn f s).wu = s.wu := rfl
@[simp] theorem updateEntry_nq (pn : PN) (f : WriteEntry → WriteEntry) : (updateEntry pn f s).nq = s.nq := rfl
@[simp] theorem updateEntry_choices (pn : PN) (f : WriteEntry → WriteEntry) : (updateEntry pn f s).choices = s.choices := rfl
@[simp] theorem updateEntry_freed (pn : PN) (f : WriteEntry → WriteEntry) : (updateEntry pn f s).freed = s.freed := rfl

/-! ## leaveQueue -/

@[simp] theorem leaveQueue_pending (pns : List PN) (d : Bool) : (leaveQueue pns d s).pending = s.pending := rfl
@[simp] theorem leaveQueue_targets (pns : List PN) (d : Bool) : (leaveQueue pns d s).targets = s.targets := rfl
@[simp] theorem leaveQueue_wq (pns : List PN) (d : Bool) : (leaveQueue pns d s).wq = s.wq.remove pns := rfl
@[simp] theorem leaveQueue_ou (pns : List PN) (d : Bool) : (leaveQueue pns d s).ou = strike (pns.map .entry) s.ou := rfl
@[simp] theorem leaveQueue_hif (pns : List PN) (d : Bool) : (leaveQueue pns d s).hif = if pns.isEmpty then s.hif else s.hif.queueDeparture := rfl
@[simp] theorem leaveQueue_bc (pns : List PN) (d : Bool) : (leaveQueue pns d s).bc = s.bc := rfl
@[simp] theorem leaveQueue_fs (pns : List PN) (d : Bool) : (leaveQueue pns d s).fs = s.fs := rfl
@[simp] theorem leaveQueue_dbe (pns : List PN) (d : Bool) : (leaveQueue pns d s).dbe = s.dbe := rfl
@[simp] theorem leaveQueue_au (pns : List PN) (d : Bool) : (leaveQueue pns d s).au = s.au.map (·.strike pns d) := rfl
@[simp] theorem leaveQueue_wu (pns : List PN) (d : Bool) : (leaveQueue pns d s).wu = s.wu := rfl
@[simp] theorem leaveQueue_nq (pns : List PN) (d : Bool) : (leaveQueue pns d s).nq = s.nq := rfl
@[simp] theorem leaveQueue_choices (pns : List PN) (d : Bool) : (leaveQueue pns d s).choices = s.choices := rfl
@[simp] theorem leaveQueue_freed (pns : List PN) (d : Bool) : (leaveQueue pns d s).freed = s.freed.or (some .other) := rfl

/-! ## setAccess -/

@[simp] theorem setAccess_pending (a : Option Access) : (setAccess a s).pending = s.pending := rfl
@[simp] theorem setAccess_targets (a : Option Access) : (setAccess a s).targets = s.targets := rfl
@[simp] theorem setAccess_wq (a : Option Access) : (setAccess a s).wq = s.wq := rfl
@[simp] theorem setAccess_ou (a : Option Access) : (setAccess a s).ou = s.ou := rfl
@[simp] theorem setAccess_hif (a : Option Access) : (setAccess a s).hif = s.hif := rfl
@[simp] theorem setAccess_bc (a : Option Access) : (setAccess a s).bc = s.bc := rfl
@[simp] theorem setAccess_fs (a : Option Access) : (setAccess a s).fs = s.fs := rfl
@[simp] theorem setAccess_dbe (a : Option Access) : (setAccess a s).dbe = { s.dbe with access := a } := rfl
@[simp] theorem setAccess_au (a : Option Access) : (setAccess a s).au = s.au := rfl
@[simp] theorem setAccess_wu (a : Option Access) : (setAccess a s).wu = s.wu := rfl
@[simp] theorem setAccess_nq (a : Option Access) : (setAccess a s).nq = s.nq := rfl
@[simp] theorem setAccess_choices (a : Option Access) : (setAccess a s).choices = s.choices := rfl
@[simp] theorem setAccess_freed (a : Option Access) : (setAccess a s).freed = s.freed := rfl

/-! ## flipLevel -/

@[simp] theorem flipLevel_pending (t : Target) : (flipLevel t s).pending = s.pending := rfl
@[simp] theorem flipLevel_targets (t : Target) : (flipLevel t s).targets = s.targets := rfl
@[simp] theorem flipLevel_wq (t : Target) : (flipLevel t s).wq = s.wq := rfl
@[simp] theorem flipLevel_ou (t : Target) : (flipLevel t s).ou = s.ou := rfl
@[simp] theorem flipLevel_hif (t : Target) : (flipLevel t s).hif = s.hif := rfl
@[simp] theorem flipLevel_bc (t : Target) : (flipLevel t s).bc = s.bc := rfl
@[simp] theorem flipLevel_fs (t : Target) : (flipLevel t s).fs = s.fs := rfl
@[simp] theorem flipLevel_dbe (t : Target) : (flipLevel t s).dbe = s.dbe := rfl
@[simp] theorem flipLevel_au (t : Target) : (flipLevel t s).au = s.au.set t { s.au[t] with high := !s.au[t].high } := rfl
@[simp] theorem flipLevel_wu (t : Target) : (flipLevel t s).wu = s.wu := rfl
@[simp] theorem flipLevel_nq (t : Target) : (flipLevel t s).nq = s.nq := rfl
@[simp] theorem flipLevel_choices (t : Target) : (flipLevel t s).choices = s.choices := rfl
@[simp] theorem flipLevel_freed (t : Target) : (flipLevel t s).freed = s.freed := rfl

/-! ## setRecord -/

@[simp] theorem setRecord_pending (t : Target) (r : AttentionRecord) : (setRecord t r s).pending = s.pending := rfl
@[simp] theorem setRecord_targets (t : Target) (r : AttentionRecord) : (setRecord t r s).targets = s.targets := rfl
@[simp] theorem setRecord_wq (t : Target) (r : AttentionRecord) : (setRecord t r s).wq = s.wq := rfl
@[simp] theorem setRecord_ou (t : Target) (r : AttentionRecord) : (setRecord t r s).ou = s.ou := rfl
@[simp] theorem setRecord_hif (t : Target) (r : AttentionRecord) : (setRecord t r s).hif = s.hif := rfl
@[simp] theorem setRecord_bc (t : Target) (r : AttentionRecord) : (setRecord t r s).bc = s.bc := rfl
@[simp] theorem setRecord_fs (t : Target) (r : AttentionRecord) : (setRecord t r s).fs = s.fs := rfl
@[simp] theorem setRecord_dbe (t : Target) (r : AttentionRecord) : (setRecord t r s).dbe = s.dbe := rfl
@[simp] theorem setRecord_au (t : Target) (r : AttentionRecord) : (setRecord t r s).au = s.au.set t { s.au[t] with record := some r } := rfl
@[simp] theorem setRecord_wu (t : Target) (r : AttentionRecord) : (setRecord t r s).wu = s.wu := rfl
@[simp] theorem setRecord_nq (t : Target) (r : AttentionRecord) : (setRecord t r s).nq = s.nq := rfl
@[simp] theorem setRecord_choices (t : Target) (r : AttentionRecord) : (setRecord t r s).choices = s.choices := rfl
@[simp] theorem setRecord_freed (t : Target) (r : AttentionRecord) : (setRecord t r s).freed = s.freed := rfl

/-! ## setTarget -/

@[simp] theorem setTarget_pending (t : Target) (e : TargetEntry) : (s.setTarget t e).pending = s.pending := rfl
@[simp] theorem setTarget_targets (t : Target) (e : TargetEntry) : (s.setTarget t e).targets = s.targets.set t e := rfl
@[simp] theorem setTarget_wq (t : Target) (e : TargetEntry) : (s.setTarget t e).wq = s.wq := rfl
@[simp] theorem setTarget_ou (t : Target) (e : TargetEntry) : (s.setTarget t e).ou = s.ou := rfl
@[simp] theorem setTarget_hif (t : Target) (e : TargetEntry) : (s.setTarget t e).hif = s.hif := rfl
@[simp] theorem setTarget_bc (t : Target) (e : TargetEntry) : (s.setTarget t e).bc = s.bc := rfl
@[simp] theorem setTarget_fs (t : Target) (e : TargetEntry) : (s.setTarget t e).fs = s.fs := rfl
@[simp] theorem setTarget_dbe (t : Target) (e : TargetEntry) : (s.setTarget t e).dbe = s.dbe := rfl
@[simp] theorem setTarget_au (t : Target) (e : TargetEntry) : (s.setTarget t e).au = s.au := rfl
@[simp] theorem setTarget_wu (t : Target) (e : TargetEntry) : (s.setTarget t e).wu = s.wu := rfl
@[simp] theorem setTarget_nq (t : Target) (e : TargetEntry) : (s.setTarget t e).nq = s.nq := rfl
@[simp] theorem setTarget_choices (t : Target) (e : TargetEntry) : (s.setTarget t e).choices = s.choices := rfl
@[simp] theorem setTarget_freed (t : Target) (e : TargetEntry) : (s.setTarget t e).freed = s.freed := rfl

/-! ## setAdmission -/

@[simp] theorem setAdmission_pending (t : Target) (a : Admission) : (s.setAdmission t a).pending = s.pending := rfl
@[simp] theorem setAdmission_targets (t : Target) (a : Admission) : (s.setAdmission t a).targets = s.targets.set t { s.targets[t] with admission := a } := rfl
@[simp] theorem setAdmission_wq (t : Target) (a : Admission) : (s.setAdmission t a).wq = s.wq := rfl
@[simp] theorem setAdmission_ou (t : Target) (a : Admission) : (s.setAdmission t a).ou = s.ou := rfl
@[simp] theorem setAdmission_hif (t : Target) (a : Admission) : (s.setAdmission t a).hif = s.hif := rfl
@[simp] theorem setAdmission_bc (t : Target) (a : Admission) : (s.setAdmission t a).bc = s.bc := rfl
@[simp] theorem setAdmission_fs (t : Target) (a : Admission) : (s.setAdmission t a).fs = s.fs := rfl
@[simp] theorem setAdmission_dbe (t : Target) (a : Admission) : (s.setAdmission t a).dbe = s.dbe := rfl
@[simp] theorem setAdmission_au (t : Target) (a : Admission) : (s.setAdmission t a).au = s.au := rfl
@[simp] theorem setAdmission_wu (t : Target) (a : Admission) : (s.setAdmission t a).wu = s.wu := rfl
@[simp] theorem setAdmission_nq (t : Target) (a : Admission) : (s.setAdmission t a).nq = s.nq := rfl
@[simp] theorem setAdmission_choices (t : Target) (a : Admission) : (s.setAdmission t a).choices = s.choices := rfl
@[simp] theorem setAdmission_freed (t : Target) (a : Admission) : (s.setAdmission t a).freed = s.freed := rfl

/-! ## openTarget -/

@[simp] theorem openTarget_pending (t : Target) : (s.openTarget t).pending = s.pending := rfl
@[simp] theorem openTarget_targets (t : Target) : (s.openTarget t).targets = s.targets.set t { s.targets[t] with admission := .opened } := rfl
@[simp] theorem openTarget_wq (t : Target) : (s.openTarget t).wq = s.wq := rfl
@[simp] theorem openTarget_ou (t : Target) : (s.openTarget t).ou = s.ou := rfl
@[simp] theorem openTarget_hif (t : Target) : (s.openTarget t).hif = s.hif := rfl
@[simp] theorem openTarget_bc (t : Target) : (s.openTarget t).bc = s.bc := rfl
@[simp] theorem openTarget_fs (t : Target) : (s.openTarget t).fs = s.fs := rfl
@[simp] theorem openTarget_dbe (t : Target) : (s.openTarget t).dbe = s.dbe := rfl
@[simp] theorem openTarget_au (t : Target) : (s.openTarget t).au = s.au := rfl
@[simp] theorem openTarget_wu (t : Target) : (s.openTarget t).wu = s.wu := rfl
@[simp] theorem openTarget_nq (t : Target) : (s.openTarget t).nq = s.nq := rfl
@[simp] theorem openTarget_choices (t : Target) : (s.openTarget t).choices = s.choices := rfl
@[simp] theorem openTarget_freed (t : Target) : (s.openTarget t).freed = s.freed.or (some .other) := rfl

end Sys2Proof.Machine
end

