-- ==== Sys2Proof/Laws/Arrival.lean ====
section
/-! SUPPORT. What taking an arrival can do: the choice of a move, settled states, and the induction
over the moves of one arrival, once for all invariants. -/

namespace Sys2Proof.Machine

/-! ## Choosing -/

@[simp] theorem choose_nil (s : State) : choose [] s = none := rfl

@[simp] theorem choose_singleton (m : Move) (s : State) : choose [m] s = some (m, s) := rfl

/-- A choice takes one of the moves and touches nothing but the counter of choices. -/
theorem choose_cases {ms : List Move} {s s' : State} {m : Move} (h : choose ms s = some (m, s')) :
    m ∈ ms ∧ ∃ n, s' = { s with choices := n } := by
  match ms, h with
  | [_], h => cases h; exact ⟨List.mem_cons_self, s.choices, rfl⟩
  | a :: b :: rest, h =>
    simp only [choose, Option.some.injEq, Prod.mk.injEq] at h
    obtain ⟨rfl, rfl⟩ := h
    refine ⟨?_, _, rfl⟩
    rw [List.getD_eq_getElem _ _ (Nat.mod_lt _ (by simp))]
    exact List.getElem_mem _

/-- There is a choice wherever there is a move. -/
theorem choose_eq_none {ms : List Move} {s : State} : choose ms s = none ↔ ms = [] := by
  match ms with
  | [] => simp
  | [_] => simp
  | _ :: _ :: _ => simp [choose]

/-! ## Moves -/

theorem heads_subset {work : List Job} {j : Job} {rest : List Job} (h : (j, rest) ∈ heads work) :
    j ∈ work ∧ ∀ k ∈ rest, k ∈ work := by
  induction work generalizing j rest with
  | nil => simp [heads] at h
  | cons a as ih =>
    simp only [heads, List.mem_cons, Prod.mk.injEq, List.mem_filterMap] at h
    obtain ⟨rfl, rfl⟩ | ⟨⟨k, r⟩, hk, heq⟩ := h
    · exact ⟨List.mem_cons_self, fun k hk => List.mem_cons_of_mem _ hk⟩
    · split at heq
      · cases heq
      · cases heq
        obtain ⟨h1, h2⟩ := ih hk
        refine ⟨List.mem_cons_of_mem _ h1, fun x hx => ?_⟩
        obtain rfl | hx := List.mem_cons.1 hx
        · exact List.mem_cons_self
        · exact List.mem_cons_of_mem _ (h2 x hx)

/-- A move is an outstanding response or a due event. -/
theorem moves_cases {work : List Job} {dues : List Due} {m : Move} (h : m ∈ moves work dues) :
    (∃ j rest, m = .job j rest ∧ j ∈ work ∧ ∀ k ∈ rest, k ∈ work) ∨
      ∃ d, m = .due d ∧ d ∈ dues := by
  simp only [moves, List.mem_append, List.mem_map, List.mem_filter] at h
  obtain ⟨⟨j, rest⟩, hj, rfl⟩ | ⟨d, ⟨hd, -⟩, rfl⟩ := h
  · exact .inl ⟨j, rest, rfl, heads_subset hj⟩
  · exact .inr ⟨d, rfl, hd⟩

@[simp] theorem moves_nil (dues : List Due) : moves [] dues = dues.map .due := by
  simp [moves, heads]

@[simp] theorem moves_single (j : Job) : moves [j] [] = [.job j []] := rfl

/-! ## Settled states -/

@[simp] theorem dues_newStep (s : State) : (newStep s).dues = s.dues := rfl

@[simp] theorem departureDues_newStep (s : State) :
    (newStep s).departureDues = s.departureDues := rfl

@[simp] theorem promptDues_newStep (s : State) : (newStep s).promptDues = s.promptDues := rfl

@[simp] theorem stretchedDue_newStep (s : State) : (newStep s).stretchedDue = s.stretchedDue := rfl

@[simp] theorem departureDues_newArrival (s : State) :
    (newArrival s).departureDues = s.departureDues := rfl

@[simp] theorem grantDue_newArrival (s : State) : (newArrival s).grantDue = s.grantDue := rfl

theorem promptDues_eq_nil {s : State} :
    s.promptDues = [] ↔ s.departureDues = [] ∧ s.ownGrantDue = false := by
  unfold State.promptDues
  cases s.departureDues <;> cases s.ownGrantDue <;> simp

/-- Nothing is due but for grants that are passed, exactly where no consequence, no grant of a request
that has just arrived, no stretched cycle and no taking effect of CLEAR is, and no other grant. -/
theorem duesPassing_eq_nil {passed : State → Bool} {s : State} : s.duesPassing passed = [] ↔
    s.departureDues = [] ∧ s.ownGrantDue = false ∧ s.stretchedDue = false ∧ s.clearDue = false
      ∧ (s.grantDue = true → passed s = true) := by
  unfold State.duesPassing
  rw [← and_assoc, ← promptDues_eq_nil]
  cases hp : s.promptDues with
  | cons d ds => simp
  | nil => cases s.stretchedDue <;> cases s.clearDue <;> cases s.grantDue <;> cases passed s <;> simp

/-- Nothing is due exactly where no consequence, no stretched cycle, no taking effect of CLEAR and no
grant is. -/
theorem settled_iff {s : State} : Settled s ↔ s.departureDues = [] ∧ s.stretchedDue = false
    ∧ s.clearDue = false ∧ s.grantDue = false := by
  unfold Settled State.dues
  rw [duesPassing_eq_nil]
  unfold State.ownGrantDue
  cases s.grantDue <;> simp

theorem departureDues_of_settled {s : State} (h : Settled s) : s.departureDues = [] :=
  (settled_iff.1 h).1

/-- Where nothing is due, nothing is due that may be passed. -/
theorem duesPassing_of_settled {s : State} (h : Settled s) (passed : State → Bool) :
    s.duesPassing passed = [] := by
  obtain ⟨h1, h2, h3, h4⟩ := settled_iff.1 h
  exact duesPassing_eq_nil.2 ⟨h1, by simp [State.ownGrantDue, h4], h2, h3, by simp [h4]⟩

theorem promptDues_of_settled {s : State} (h : Settled s) : s.promptDues = [] := by
  obtain ⟨h1, -, -, h4⟩ := settled_iff.1 h
  exact promptDues_eq_nil.2 ⟨h1, by simp [State.ownGrantDue, h4]⟩

theorem promptDues_subset {s : State} : ∀ d ∈ s.promptDues, d ∈ s.dues := by
  intro d h
  unfold State.dues State.duesPassing
  cases hp : s.promptDues with
  | nil => simp [hp] at h
  | cons x xs => simpa [hp] using h

theorem departureDues_subset {s : State} : ∀ d ∈ s.departureDues, d ∈ s.dues := by
  intro d h
  refine promptDues_subset d ?_
  unfold State.promptDues
  cases hd : s.departureDues with
  | nil => simp [hd] at h
  | cons x xs => simpa [hd] using h

theorem duesPassing_subset {passed : State → Bool} {s : State} :
    ∀ d ∈ s.duesPassing passed, d ∈ s.dues := by
  intro d h
  unfold State.dues
  unfold State.duesPassing at h ⊢
  cases hp : s.promptDues with
  | cons x xs => simpa [hp] using h
  | nil =>
    rw [hp] at h
    simp only [List.isEmpty_nil, if_true, List.mem_append] at h ⊢
    rcases h with h | h
    · exact .inl h
    · refine .inr ?_
      cases hg : s.grantDue <;> cases hq : passed s <;> simp_all

/-- Taking due events changes nothing where there are none. -/
theorem drain_of_none {dues : State → List Due} {s : State} (h : dues s = []) (n : Nat) :
    drain dues n [] s = s := by
  cases n with
  | zero => rfl
  | succ n => simp [drain, h]

/-- An arrival only begins a new step, where nothing is due but grants it may come before. -/
theorem arrivePassing_of_none {passed : State → Bool} {s : State}
    (h : (newStep s).duesPassing passed = []) :
    arrivePassing passed s = newArrival (newStep s) :=
  congrArg newArrival (drain_of_none h _)

theorem arrivePassing_of_settled {s : State} (h : Settled s) (passed : State → Bool) :
    arrivePassing passed s = newArrival (newStep s) :=
  arrivePassing_of_none (duesPassing_of_settled (s := newStep s) h passed)

/-- An arrival at a settled state only begins a new step. -/
theorem arrive_of_settled {s : State} (h : Settled s) : arrive s = newArrival (newStep s) :=
  arrivePassing_of_settled h _

theorem settleDepartures_of_settled {s : State} (h : Settled s) :
    settleDepartures (newStep s) = newStep s :=
  drain_of_none (by simpa using departureDues_of_settled h) _

theorem settlePrompt_of_settled {s : State} (h : Settled s) :
    settlePrompt (newStep s) = newStep s :=
  drain_of_none (by simpa using promptDues_of_settled h) _

/-! ## Responses -/

@[simp] theorem takeJobs_nil (s : State) : takeJobs [] s = s := by
  unfold takeJobs
  cases moveBound [] s <;> rfl

/-- A single offer, where nothing is due, is taken by the Notice Queue. -/
theorem takeJobs_offer {s : State} (h : s.departureDues = []) (b : Block) (n : Notice) :
    takeJobs [⟨b, .offer n⟩] s = offer n s := by
  have hb : moveBound [⟨b, .offer n⟩] s = s.dueWeight + 1 := by
    simp [moveBound, Task.weight, Nat.add_comm]
  unfold takeJobs
  rw [hb]
  simp only [respond, h, moves_single, choose_singleton, makeMove, runTask, List.append_nil]
  cases s.dueWeight <;> rfl

/-! ## One induction over the moves of an arrival -/

/-- What keeps an invariant `P` through every move of an arrival, when every outstanding response is
one of `J`. -/
structure KeptByMoves (P : State → Prop) (J : Task → Prop) : Prop where
  /-- a choice of order keeps it -/
  choice : ∀ s n, P s → P { s with choices := n }
  /-- the beginning of a new arrival keeps it -/
  newArrival : ∀ s, P s → P (newArrival s)
  /-- a response keeps it, and calls for responses of `J` only -/
  job : ∀ task s, J task → P s → P (runTask task s).1 ∧ ∀ j ∈ (runTask task s).2, J j.task
  /-- a due event keeps it, and calls for responses of `J` only -/
  due : ∀ d s, d ∈ s.dues → P s → P (runDue d s).1 ∧ ∀ j ∈ (runDue d s).2, J j.task

variable {P : State → Prop} {J : Task → Prop}

theorem KeptByMoves.makeMove (k : KeptByMoves P J) {work : List Job} {dues : List Due} {s s' : State}
    {m : Move} (hd : ∀ d ∈ dues, d ∈ s.dues) (hw : ∀ j ∈ work, J j.task) (hp : P s)
    (h : choose (moves work dues) s = some (m, s')) :
    P (makeMove m work s').1 ∧ ∀ j ∈ (Machine.makeMove m work s').2, J j.task := by
  obtain ⟨hm, n, rfl⟩ := choose_cases h
  have hp' := k.choice s n hp
  obtain ⟨j, rest, rfl, hj, hr⟩ | ⟨d, rfl, hmem⟩ := moves_cases hm
  · obtain ⟨h1, h2⟩ := k.job j.task _ (hw j hj) hp'
    refine ⟨h1, fun x hx => ?_⟩
    obtain hx | hx := List.mem_append.1 hx
    · exact hw x (hr x hx)
    · exact h2 x hx
  · obtain ⟨h1, h2⟩ := k.due d { s with choices := n } (hd d hmem) hp'
    refine ⟨h1, fun x hx => ?_⟩
    obtain hx | hx := List.mem_append.1 hx
    · exact hw x hx
    · exact h2 x hx

theorem KeptByMoves.respond (k : KeptByMoves P J) (n : Nat) {work : List Job} {s : State}
    (hw : ∀ j ∈ work, J j.task) (hp : P s) : P (respond n work s) := by
  induction n generalizing work s with
  | zero => exact hp
  | succ n ih =>
    match work, hw with
    | [], _ => exact hp
    | j :: js, hw =>
      simp only [Machine.respond]
      split
      · exact hp
      · next m s' h =>
        obtain ⟨h1, h2⟩ := k.makeMove departureDues_subset hw hp h
        exact ih h2 h1

/-- An invariant kept by every move holds after the responses of an arrival. -/
theorem KeptByMoves.takeJobs (k : KeptByMoves P J) {work : List Job} {s : State}
    (hw : ∀ j ∈ work, J j.task) (hp : P s) : P (takeJobs work s) :=
  k.respond _ hw hp

theorem KeptByMoves.drain (k : KeptByMoves P J) {dues : State → List Due}
    (hd : ∀ s, ∀ d ∈ dues s, d ∈ s.dues) (n : Nat) {work : List Job} {s : State}
    (hw : ∀ j ∈ work, J j.task) (hp : P s) : P (drain dues n work s) := by
  induction n generalizing work s with
  | zero => exact hp
  | succ n ih =>
    simp only [Machine.drain]
    split
    · exact hp
    · next m s' h =>
      obtain ⟨h1, h2⟩ := k.makeMove (hd s) hw hp h
      exact ih h2 h1

/-- An invariant kept by every move holds of the state an arrival meets. -/
theorem KeptByMoves.arrivePassing (k : KeptByMoves P J) (passed : State → Bool) {s : State}
    (hp : P (newStep s)) : P (arrivePassing passed s) :=
  k.newArrival _ (k.drain (fun _ => duesPassing_subset) _ (by simp) hp)

theorem KeptByMoves.arrive (k : KeptByMoves P J) {s : State} (hp : P (newStep s)) : P (arrive s) :=
  k.arrivePassing _ hp

theorem KeptByMoves.settlePrompt (k : KeptByMoves P J) {s : State} (hp : P s) :
    P (settlePrompt s) :=
  k.drain (fun _ => promptDues_subset) _ (by simp) hp

theorem KeptByMoves.settleDepartures (k : KeptByMoves P J) {s : State} (hp : P s) :
    P (settleDepartures s) :=
  k.drain (fun _ => departureDues_subset) _ (by simp) hp

/-- An invariant kept by every move holds after a due event with its responses. -/
theorem KeptByMoves.takeDue (k : KeptByMoves P J) {d : Due} {s : State} (hd : d ∈ s.dues)
    (hp : P s) : P (takeDue d s) := by
  obtain ⟨h1, h2⟩ := k.due d s hd hp
  exact k.takeJobs h2 h1

end Sys2Proof.Machine
end

