-- ==== Sys2Proof/Laws/Ops.lean ====
section
/-! SUPPORT. One lemma for each shared operation, which says what it answers or does, so that later
proofs need not unfold it. -/

namespace Sys2Proof.Machine

/-! ## Target Table -/

theorem enabled_iff {a : Admission} : a.enabled = true ↔ a ≠ .disabled := by
  cases a <;> simp [Admission.enabled]

theorem isHalted_iff {a : Admission} : a.isHalted = true ↔ ∃ fault, a = .halted fault := by
  cases a <;> simp [Admission.isHalted]

theorem bytes_pos (z : WindowSize) : 0 < z.bytes := by cases z <;> decide

theorem windowHas_iff {base : Offset} {size : WindowSize} {offset : Offset} :
    windowHas base size offset = true ↔
      base.toNat ≤ offset.toNat ∧ offset.toNat < base.toNat + size.bytes := by
  simp [windowHas]

/-- Two windows meet exactly where they have an offset in common. -/
theorem windowsMeet_iff {c d : TargetConfig} : windowsMeet c d = true ↔
    ∃ o : Nat, (c.base.toNat ≤ o ∧ o < c.base.toNat + c.size.bytes)
      ∧ d.base.toNat ≤ o ∧ o < d.base.toNat + d.size.bytes := by
  have := bytes_pos c.size
  have := bytes_pos d.size
  simp only [windowsMeet, Bool.and_eq_true, decide_eq_true_iff]
  constructor
  · rintro ⟨h1, h2⟩
    exact ⟨max c.base.toNat d.base.toNat, by omega⟩
  · rintro ⟨o, h⟩
    omega

theorem windowsMeet_comm (c d : TargetConfig) : windowsMeet c d = windowsMeet d c :=
  Bool.and_comm _ _

theorem mem_allTargets (t : Target) : t ∈ allTargets := by revert t; decide

theorem mem_allSlots (k : SlotNo) : k ∈ allSlots := by revert k; decide

/-- The lowest-numbered target a search over all targets finds. -/
theorem find_allTargets {p : Target → Bool} {x : Target} (hx : p x = true)
    (hl : ∀ y < x, p y = false) : allTargets.find? p = some x := by
  have key : ∀ (q : Fin 8 → Bool) (x : Fin 8), q x = true → (∀ y < x, q y = false) →
      [0, 1, 2, 3, 4, 5, 6, 7].find? q = some x := by
    intro q x hx hl
    have h : ∀ y : Fin 8, y < x → q y = false := hl
    fin_cases x <;> simp_all [Fin.forall_fin_succ]
  exact key p x hx hl

/-- A hit is an enabled target whose live window contains the offset. -/
theorem decodeLanes_hit {s : State} {offset : Offset} {lanes l : Lanes} {t : Target}
    (h : s.decodeLanes offset lanes = .hit t l) :
    l = lanes ∧ (s.admission t).enabled = true
      ∧ windowHas (s.live t).base (s.live t).size offset = true := by
  unfold State.decodeLanes at h
  split at h
  · next x hx =>
    cases h
    have := List.find?_some hx
    simp only [Bool.and_eq_true] at this
    exact ⟨rfl, this⟩
  · cases h

theorem decodeLanes_miss {s : State} {offset : Offset} {lanes : Lanes} {c : NoticeCause} :
    s.decodeLanes offset lanes = .miss c ↔ c = .noWindow ∧
      ∀ t, (s.admission t).enabled = true →
        windowHas (s.live t).base (s.live t).size offset = false := by
  unfold State.decodeLanes
  split
  · next x hx =>
    have := List.find?_some hx
    simp only [Bool.and_eq_true] at this
    simp only [reduceCtorEq, false_iff, not_and]
    intro _ h
    simp [h x this.1] at this
  · next hn =>
    simp only [List.find?_eq_none, Bool.and_eq_true, not_and, Bool.not_eq_true] at hn
    simp only [Decoded.miss.injEq, eq_comm (a := NoticeCause.noWindow)]
    exact ⟨fun h => ⟨h, fun t => hn t (mem_allTargets t)⟩, fun h => h.1⟩

@[simp] theorem admission_setAdmission (s : State) (t x : Target) (a : Admission) :
    (s.setAdmission t a).admission x = if x = t then a else s.admission x := by
  by_cases h : x = t
  · subst h; simp [State.setAdmission, State.setTarget, State.admission]
  · simp only [h, if_false]
    simp only [State.setAdmission, State.setTarget, State.admission, Fin.getElem_fin]
    rw [Vector.getElem_set_ne _ _ (fun e => h (Fin.ext e.symm))]

@[simp] theorem live_setAdmission (s : State) (t x : Target) (a : Admission) :
    (s.setAdmission t a).live x = s.live x := by
  by_cases h : x = t
  · subst h; simp [State.setAdmission, State.setTarget, State.live]
  · simp only [State.setAdmission, State.setTarget, State.live, Fin.getElem_fin]
    rw [Vector.getElem_set_ne _ _ (fun e => h (Fin.ext e.symm))]

/-! ## Order Unit -/

theorem waitSetOf_none (s : State) : s.waitSetOf none = s.ou.map (·.id) := by
  simp [State.waitSetOf, State.waitsFor]

/-- The five conditions of R43. -/
theorem waitsFor_iff {s : State} {x y : Option Target} : s.waitsFor x y = true ↔
    y = none ∨ x = none ∨ y = x ∨ (∃ ty, y = some ty ∧ (s.live ty).ordering = .strict)
      ∨ ∃ tx, x = some tx ∧ (s.live tx).ordering = .strict := by
  cases x with
  | none => simp [State.waitsFor]
  | some tx => cases y with
    | none => simp [State.waitsFor]
    | some ty => simp only [State.waitsFor, Bool.or_eq_true, beq_iff_eq, Option.some.injEq,
        reduceCtorEq, false_or, exists_eq_left', or_assoc, @eq_comm _ tx ty]

theorem mem_strike {ids : List RequestId} {ou : List PresentRequest} {r : PresentRequest} :
    r ∈ strike ids ou ↔ ∃ q ∈ ou, q.id ∉ ids
      ∧ r = { q with waitSet := q.waitSet.filter fun m => !ids.contains m } := by
  simp only [strike, List.mem_map, List.mem_filter, Bool.not_eq_true', List.contains_eq_mem,
    decide_eq_false_iff_not]
  exact ⟨fun ⟨q, ⟨h1, h2⟩, e⟩ => ⟨q, h1, h2, e.symm⟩, fun ⟨q, h1, h2, e⟩ => ⟨q, ⟨h1, h2⟩, e.symm⟩⟩

/-! ## Write Queue -/

theorem room_iff {q : WriteQueue} :
    q.room = true ↔ q.entries.length < 8 ∧ ∀ e ∈ q.entries, e.pn ≠ q.nextPn := by
  unfold WriteQueue.room
  rw [Bool.and_eq_true, decide_eq_true_iff, List.all_eq_true]
  simp [Config.queuePlaces]

theorem pnAfter_ne_zero (pn : PN) : pnAfter pn ≠ 0 := by
  unfold pnAfter
  split
  · decide
  · next h =>
    intro e
    exact h (by bv_omega)

theorem find_some {q : WriteQueue} {pn : PN} {e : WriteEntry} (h : q.find pn = some e) :
    .write e ∈ q.entries ∧ e.pn = pn := by
  obtain ⟨x, hx, hf⟩ := List.exists_of_findSome?_eq_some h
  cases x with
  | write y =>
    simp only at hf
    split at hf
    · next hy => cases hf; exact ⟨hx, hy⟩
    · cases hf
  | fence f => cases hf

@[simp] theorem update_nextPn (q : WriteQueue) (pn : PN) (f : WriteEntry → WriteEntry) :
    (q.update pn f).nextPn = q.nextPn := rfl

@[simp] theorem update_lastFenceRetired (q : WriteQueue) (pn : PN) (f : WriteEntry → WriteEntry) :
    (q.update pn f).lastFenceRetired = q.lastFenceRetired := rfl

/-- Changing an entry keeps every entry's name and target. -/
theorem update_requests (q : WriteQueue) (pn : PN) {f : WriteEntry → WriteEntry}
    (hp : ∀ e, (f e).pn = e.pn) (ht : ∀ e, (f e).target = e.target) :
    (q.update pn f).entries.map entryRequest = q.entries.map entryRequest := by
  simp only [WriteQueue.update, List.map_map]
  apply List.map_congr_left
  intro x _
  cases x with
  | write e => simp only [Function.comp]; split <;> simp [entryRequest, hp, ht]
  | fence f => rfl

theorem update_pns (q : WriteQueue) (pn : PN) {f : WriteEntry → WriteEntry}
    (hp : ∀ e, (f e).pn = e.pn) :
    (q.update pn f).entries.map (·.pn) = q.entries.map (·.pn) := by
  simp only [WriteQueue.update, List.map_map]
  apply List.map_congr_left
  intro x _
  cases x with
  | write e => simp only [Function.comp]; split <;> simp [QueueEntry.pn, hp]
  | fence f => rfl

/-- The posting numbers of a target's write entries, read off the entries. -/
theorem pnsOf_eq (q : WriteQueue) (t : Target) : q.pnsOf t = q.entries.filterMap fun
    | .write e => if e.target = t then some e.pn else none
    | .fence _ => none := by
  unfold WriteQueue.pnsOf
  induction q.entries with
  | nil => rfl
  | cons x xs ih =>
    cases x with
    | write e => by_cases h : e.target = t <;> simp_all [QueueEntry.isWriteOf, QueueEntry.pn]
    | fence f => simp_all [QueueEntry.isWriteOf]

/-- What a departure from the queue leaves of the HIF. -/
theorem queueDeparture_eq (h : HostInterface) : h.queueDeparture = { h with recheckDue :=
    h.recheckDue || (match h.held with | some (.write _) => true | _ => false) } := by
  unfold HostInterface.queueDeparture
  split
  · next w hw => simp [hw]
  · next hn =>
    obtain ⟨held, timer, due, stretched, replies⟩ := h
    cases held with
    | none => simp
    | some a => cases a with
      | write w => exact absurd rfl (hn w)
      | read r => simp

/-! ## Bridge -/

/-- The drain condition of R146. -/
theorem drained_iff {s : State} : s.drained = true ↔ s.wq.entries = [] ∧ s.heldRead? = none
    ∧ s.dbe.access = none ∧ ∀ k : SlotNo, s.fs[k].state.holdsRequest = false := by
  simp only [State.drained, Bool.and_eq_true, List.isEmpty_iff, List.all_eq_true,
    Option.isNone_iff_eq_none]
  constructor
  · rintro ⟨⟨⟨h1, h2⟩, h3⟩, h4⟩
    exact ⟨h1, h3, h4, fun k => by simpa using h2 s.fs[k] (by simp)⟩
  · rintro ⟨h1, h3, h4, h2⟩
    refine ⟨⟨⟨h1, fun x hx => ?_⟩, h3⟩, h4⟩
    obtain ⟨i, hi, rfl⟩ := Vector.mem_iff_getElem.1 (by simpa using hx : x ∈ s.fs)
    simpa using h2 ⟨i, hi⟩

theorem inFlight_iff {s : State} {t : Target} :
    s.inFlight t = true ↔ ∃ a, s.dbe.access = some a ∧ a.target = t := by
  unfold State.inFlight
  cases s.dbe.access <;> simp

theorem holdsCycleOf_iff {s : State} {t : Target} : s.holdsCycleOf t = true ↔
    (∃ w, s.heldWrite? = some w ∧ w.target = t) ∨ ∃ r, s.heldRead? = some r ∧ r.target = t := by
  simp only [State.holdsCycleOf, State.heldWrite?, State.heldRead?]
  cases s.hif.held with
  | none => simp
  | some a => cases a <;> simp

/-- A command outside Clearing is settled as its block answers it. -/
theorem takeCommand_of {u : State} (h : u.bc.state ≠ .clearing) (code : BitVec 8)
    (block : State → Answer) : takeCommand code block u = settleCommand code (block u) := by
  simp only [takeCommand, if_neg h]

/-- While Clearing a command is refused. -/
theorem takeCommand_clearing {u : State} (h : u.bc.state = .clearing) (code : BitVec 8)
    (block : State → Answer) :
    takeCommand code block u = settleCommand code (refuse .refusedClearing .none u) := by
  simp only [takeCommand, if_pos h]

/-! ## The responses of an arrival -/

/-- A halt of an Open target is recorded and seen by the HIF; another is not. -/
theorem takeHalt_cases (t : Target) (fault : FaultRecord) (s : State) :
    (s.admission t = .opened
        ∧ takeHalt t fault s = (s.setAdmission t (.halted fault), [⟨.hif, .seeHalt t⟩]))
      ∨ s.admission t ≠ .opened ∧ takeHalt t fault s = (s, []) := by
  unfold takeHalt
  cases h : s.admission t <;> simp

/-- The HIF ends a held write, or a Waiting held read, of the halted target. -/
theorem seeHalt_cases (t : Target) (s : State) :
    (∃ w, s.heldWrite? = some w ∧ w.target = t
        ∧ seeHalt t s = (reply (.apertureWrite w.offset .busError) (endHold s),
            [⟨.hif, .offer (.refused w.target w.offset .halted .write)⟩]))
      ∨ (∃ r, s.heldRead? = some r ∧ r.target = t ∧ r.phase = .waiting
        ∧ seeHalt t s = haltHeldRead r s)
      ∨ seeHalt t s = (s, []) := by
  unfold seeHalt State.heldWrite? State.heldRead?
  cases hh : s.hif.held with
  | none => simp
  | some a => cases a with
    | write w => by_cases hw : w.target = t <;> simp [hw]
    | read r => by_cases hr : r.target = t ∧ r.phase = .waiting <;> simp [hr]

/-- The re-check refuses the held write by the bridge state or its target's halt, enters it, or keeps
it for want of room. -/
theorem recheckHeldWrite_cases {s : State} {w : HeldWrite} (h : s.heldWrite? = some w) :
    (s.bc.state ≠ .running ∧ recheckHeldWrite s = refuseHeldWrite w .quiescing s)
      ∨ (s.bc.state = .running ∧ (s.admission w.target).isHalted = true
        ∧ recheckHeldWrite s = refuseHeldWrite w .halted s)
      ∨ (s.bc.state = .running ∧ (s.admission w.target).isHalted = false ∧ s.wq.room = true
        ∧ recheckHeldWrite s =
            (reply (.apertureWrite w.offset (.ready 0)) (enterWrite w (endHold s)), []))
      ∨ (s.bc.state = .running ∧ (s.admission w.target).isHalted = false ∧ s.wq.room = false
        ∧ recheckHeldWrite s = ({ s with hif := { s.hif with recheckDue := false } }, [])) := by
  unfold recheckHeldWrite
  rw [h]
  by_cases hb : s.bc.state = .running
  · cases hh : (s.admission w.target).isHalted with
    | true => simp [hb, hh]
    | false => cases s.wq.room <;> simp [hb, hh]
  · simp [hb]

/-- What the HIF does with the stretched cycle that came first. -/
theorem takeStretched_cons {s : State} {c : ApertureCycle} {rest : List ApertureCycle}
    (h : s.hif.stretched = c :: rest) :
    takeStretched s = takeCycle c { s with hif := { s.hif with stretched := rest }
                                           freed := if s.grantDue then s.freed else none } := by
  unfold takeStretched
  rw [h]

/-- A hit of decode is an Open or Halted target, and the lanes are those of the cycle. -/
theorem decode_hit {s : State} {offset : Offset} {size : CycleSize} {t : Target} {lanes : Lanes}
    (h : s.decode offset size = .hit t lanes) :
    lanesOfCycle offset size = some lanes ∧ (s.admission t).enabled = true := by
  unfold State.decode at h
  split at h
  · cases h
  · next l hl =>
    obtain ⟨rfl, he, -⟩ := decodeLanes_hit h
    exact ⟨hl, he⟩

/-- An enabled target that is not Halted is Open. -/
theorem opened_of_enabled {a : Admission} (he : a.enabled = true) (hh : a.isHalted = false) :
    a = .opened := by
  cases a <;> simp_all [Admission.enabled, Admission.isHalted]

/-- What the HIF does with a cycle it takes: it refuses it with bus error, with at most one notice;
or, outside Clearing and for an Open target, it merges a write, enters it or holds it, or holds a
read. -/
theorem takeCycle_cases (c : ApertureCycle) (s : State) :
    (∃ r, takeCycle c s = reply r s)
      ∨ (∃ r n, s.bc.state ≠ .clearing ∧ takeCycle c s = reply r (offer n s))
      ∨ (∃ w, s.bc.state = .running ∧ s.admission w.target = .opened
        ∧ takeCycle c s = admitWrite w s)
      ∨ ∃ t offset lanes, s.bc.state ≠ .clearing ∧ s.admission t = .opened
        ∧ takeCycle c s = holdRead t offset lanes s := by
  cases c with
  | write offset size data =>
    by_cases hc : s.bc.state = .clearing
    · exact .inl ⟨_, by simp [takeCycle, takeWrite, hc, refuseWrite]; rfl⟩
    · simp only [takeCycle, takeWrite, if_neg hc]
      cases hd : s.decode offset size with
      | miss cause => exact .inr (.inl ⟨_, _, hc, rfl⟩)
      | hit t lanes =>
        cases hh : (s.admission t).isHalted with
        | true => exact .inr (.inl ⟨_, _, hc, by simp [hh, refuseWrite]; rfl⟩)
        | false =>
          by_cases hr : s.bc.state = .running
          · exact .inr (.inr (.inl ⟨⟨t, offset, lanes, hostBytes lanes data⟩, hr,
              opened_of_enabled (decode_hit hd).2 hh, by simp [hh, hr]⟩))
          · exact .inr (.inl ⟨_, _, hc, by simp [hh, hr, refuseWrite]; rfl⟩)
  | read offset size =>
    by_cases hc : s.bc.state = .clearing
    · exact .inl ⟨_, by simp [takeCycle, takeRead, hc, refuseRead]; rfl⟩
    · simp only [takeCycle, takeRead, if_neg hc]
      cases hd : s.decode offset size with
      | miss cause => exact .inr (.inl ⟨_, _, hc, rfl⟩)
      | hit t lanes =>
        cases hh : (s.admission t).isHalted with
        | true => exact .inr (.inl ⟨_, _, hc, by simp [hh, refuseRead]; rfl⟩)
        | false =>
          exact .inr (.inr (.inr ⟨t, offset, lanes, hc,
            opened_of_enabled (decode_hit hd).2 hh, by simp [hh]⟩))

/-- An admitted write is merged, entered or held. -/
theorem admitWrite_cases (w : HeldWrite) (s : State) :
    (∃ e, s.mergeEntry? w = some e
        ∧ admitWrite w s = reply (.apertureWrite w.offset (.ready 0)) (updateEntry e.pn (·.merge w) s))
      ∨ (s.mergeEntry? w = none ∧ s.wq.room = true
        ∧ admitWrite w s = reply (.apertureWrite w.offset (.ready 0)) (enterWrite w s))
      ∨ (s.mergeEntry? w = none ∧ s.wq.room = false ∧ admitWrite w s = hold (.write w) s) := by
  unfold admitWrite
  cases s.mergeEntry? w <;> cases s.wq.room <;> simp

/-- A write that would be merged into an entry is, when it arrives. -/
theorem apertureArrival_of_mergesInto {s : State} {offset : Offset} {size : CycleSize} {data : Word}
    {e : WriteEntry} (h : s.mergesInto? offset size data = some e) :
    ∃ w : HeldWrite, w.offset = offset ∧ s.mergeEntry? w = some e
      ∧ apertureArrival (.write offset size data) s
          = reply (.apertureWrite offset (.ready 0)) (updateEntry e.pn (·.merge w) s) := by
  unfold State.mergesInto? at h
  split at h
  · cases h
  · next hf =>
    split at h
    · cases h
    · next t lanes hd =>
      cases hh : (s.admission t).isHalted with
      | true => simp [hh] at h
      | false =>
        simp only [hh, Bool.false_eq_true, if_false] at h
        simp only [Bool.or_eq_true, bne_iff_ne, ne_eq, not_or, Decidable.not_not] at hf
        obtain ⟨⟨h1, h2⟩, h3⟩ := hf
        refine ⟨_, rfl, h, ?_⟩
        simp [apertureArrival, h1, h2, takeCycle, takeWrite, h3, hd, hh, admitWrite, h]

/-- A single offer is taken by the Notice Queue where everything due belongs to the offering block
itself. -/
theorem takeJobs_offer_of_block {s : State} (b : Block) (n : Notice)
    (h : ∀ d ∈ s.departureDues, d.block = b) : takeJobs [⟨b, .offer n⟩] s = offer n s := by
  have hm : moves [⟨b, .offer n⟩] s.departureDues = [.job ⟨b, .offer n⟩ []] := by
    simp only [moves, heads, List.filterMap_nil, List.map_cons, List.map_nil,
      List.singleton_append, List.cons.injEq, true_and, List.map_eq_nil_iff,
      List.filter_eq_nil_iff]
    intro d hd
    simp [h d hd]
  have hb : moveBound [⟨b, .offer n⟩] s = s.dueWeight + 1 := by
    simp [moveBound, Task.weight, Nat.add_comm]
  unfold takeJobs
  rw [hb]
  simp only [respond, hm, choose_singleton, makeMove, runTask, List.append_nil]
  cases s.dueWeight <;> rfl

/-! ## Issue arbiter -/

/-- The winner is present and eligible. -/
theorem winner_mem {s : State} {r : PresentRequest} (h : s.winner? = some r) :
    r ∈ s.ou ∧ s.eligible r = true := by
  have key : ∀ p : PresentRequest → Bool, (s.ou.filter s.eligible).find? p = some r →
      r ∈ s.ou ∧ s.eligible r = true := fun p hp =>
    List.mem_filter.1 (List.mem_of_find?_eq_some hp)
  simp only [State.winner?, Option.or_eq_some_iff] at h
  rcases h with h | ⟨-, h | ⟨-, h⟩⟩ <;> exact key _ h

/-- There is a winner wherever a request is eligible. -/
theorem winner_isSome {s : State} : s.winner?.isSome ↔ ∃ r ∈ s.ou, s.eligible r = true := by
  constructor
  · intro h
    obtain ⟨r, hr⟩ := Option.isSome_iff_exists.1 h
    exact ⟨r, winner_mem hr⟩
  · rintro ⟨r, hr, he⟩
    have hm : r ∈ s.ou.filter s.eligible := List.mem_filter.2 ⟨hr, he⟩
    simp only [State.winner?, Option.isSome_or, Bool.or_eq_true, List.find?_isSome]
    cases hi : r.id with
    | heldRead => exact .inl ⟨r, hm, by simp [hi, RequestId.rank]⟩
    | fetch k => exact .inr (.inl ⟨r, hm, by simp [hi, RequestId.rank]⟩)
    | entry pn => exact .inr (.inr ⟨r, hm, by simp [hi, RequestId.rank]⟩)

/-- A grant is due exactly where the arbiter may grant and a request is eligible. -/
theorem grantDue_iff {s : State} : s.grantDue = true ↔
    s.mayGrant = true ∧ ∃ r ∈ s.ou, s.eligible r = true := by
  simp only [State.grantDue, Bool.and_eq_true, winner_isSome]

/-- A grant that another arrival brought about is due, to a request of which `p` holds. -/
theorem freedGrantOf_iff {s : State} {p : PresentRequest → Bool} : s.freedGrantOf p = true ↔
    s.mayGrant = true ∧ s.freed ≠ none ∧ ∃ r, s.winner? = some r ∧ p r = true := by
  unfold State.freedGrantOf State.grantDue
  cases s.winner? <;> simp [Option.isSome_iff_ne_none, and_assoc]

/-- The arbiter's decision grants the winner, or changes nothing. -/
theorem grantChosen_cases (s : State) :
    (∃ r, s.mayGrant = true ∧ s.winner? = some r ∧ grantChosen s = grant r s)
      ∨ s.grantDue = false ∧ grantChosen s = s := by
  unfold grantChosen State.grantDue
  cases hm : s.mayGrant <;> cases hw : s.winner? <;> simp

end Sys2Proof.Machine
end

