-- ==== Sys2Proof/Tests/Slice0.lean ====
section
/-! SUPPORT. Small tests of the model, each expected value read from the manual, and for every
statement of the certificates a state and operands that meet its hypotheses, clause by clause. -/

open Sys2Proof Sys2Proof.Machine

namespace Sys2Proof.Tests

/-! ## Well-formedness: an ill-formed term for each check -/

theorem test_word_cycle_is_no_register_bus_error :
    (Instr.registerWindowBusError true 0x08 .word).wellFormed = false := by decide

theorem test_discarded_write_is_at_no_written_register :
    (Instr.registerWrite 0x08 0).wellFormed = false
      ∧ (Instr.registerWrite 0xF4 0).wellFormed = false
      ∧ (Instr.registerWrite 0x04 0).wellFormed = true := by decide

theorem test_unknown_command_names_none :
    (Instr.unknownCommand 0x01).wellFormed = false ∧ (Instr.unknownCommand 0x09).wellFormed = false
      ∧ (Instr.unknownCommand 0x0A).wellFormed = true := by decide

theorem test_ready_sample_within_the_longest_timeout :
    (Instr.readySampledHigh 4033 0).wellFormed = false
      ∧ (Instr.readySampledHigh 4032 0).wellFormed = true := by decide

/-! ## From host cycles to commands -/

/-- Section 12.5: the Window, Timing and Command writes that program target 5. -/
theorem test_programming_target_five :
    commandOfHostCycle false true 0x00D0 0xF 0x00805000 = some (.window 5 0x00805000)
      ∧ commandOfHostCycle false true 0x00D4 0xF 0x08000141 = some (.timing 5 0x08000141)
      ∧ commandOfHostCycle false true 0x000C 0xF 0x00000501 = some (.enable 5) := by decide

/-- R159: a halfword on any two lanes; three enables give no size. -/
theorem test_cycle_size_by_enables :
    cycleSize 0b0101 = .half ∧ cycleSize 0b1000 = .byte ∧ cycleSize 0b1110 = .unsized
      ∧ cycleSize 0b0000 = .unsized := by decide

/-- The table gives its rows no bits, so no word spells a command and none is put in front. -/
theorem test_no_table_word_spells_a_command :
    decodeTableWord 32 0x501 = none ∧ State.reset.withFetchWord 32 0x501 = State.reset := by decide

/-! ## Small states -/

/-- What holds of the state a command leaves. -/
def after (c : Instr) (s : State) (p : State → Bool) : Bool :=
  match exec c s with
  | .next t => p t
  | .fault _ | .refused _ => false

/-- A half-wide target with every option on: window 1000H to 1FFFH, recovery 8 DP, timeout 64 DP. -/
def displayConfig : TargetConfig :=
  { TargetConfig.powerOn with
    base := 0x1000, size := .s4K, width := .half, coalesce := true, readySense := true
    recovery := 2, timeout := 1, attentionMode := .both, attentionOrdering := true }

/-- Target 0 as after power-on, and target 1 as `displayConfig`; both Open. The read-turnaround timer
runs, so that no grant is due. -/
def base : State :=
  { State.reset with
    dbe := { State.reset.dbe with turnaround := some 1 }
    targets := (State.reset.targets.set 0 ⟨.powerOn, .powerOn, .opened⟩).set 1
      ⟨displayConfig, displayConfig, .opened⟩ }

/-- The same with another admission state of target 1. -/
def withAdmission (a : Admission) (s : State) : State :=
  { s with targets := s.targets.set 1 { s.targets[1] with admission := a } }

/-- The same with another bridge state. -/
def inState (b : BridgeState) (s : State) : State := { s with bc := { s.bc with state := b } }

/-- A byte write to 1006H, not yet granted. -/
def write1006 (pn : PN) (progress : Progress) : WriteEntry :=
  { pn := pn, target := 1, offset := 0x1006, lanes := .low, data := 0x0011, progress := progress
    begun := progress != .queued, failed := false }

/-- One write entry, PN 1, present. -/
def oneWrite (progress : Progress) : State :=
  { base with
    wq := { entries := [.write (write1006 1 progress)], nextPn := 2, lastFenceRetired := 0 }
    ou := [⟨.entry 1, some 1, []⟩] }

/-- A full queue: eight write entries of target 1. -/
def full : State :=
  { base with
    wq := { entries := [1, 2, 3, 4, 5, 6, 7, 8].map fun pn => .write (write1006 pn .queued)
            nextPn := 9, lastFenceRetired := 0 } }

/-- A write to 1008H of target 1, held for want of room. -/
def heldWrite : HeldWrite := ⟨1, 0x1008, .low, 0x0022⟩

def holdingWrite (s : State) : State :=
  { s with hif := { s.hif with held := some (.write heldWrite), holdTimer := some 256 } }

/-- A held read of 1006H, Both lanes. -/
def heldRead (phase : ReadPhase) (cycle : CycleState) : HeldRead :=
  { target := 1, offset := 0x1006, lanes := .both, phase := phase, lowHalfDone := false
    keptLow := none, cycle := cycle }

def holdingRead (phase : ReadPhase) (cycle : CycleState) (s : State) : State :=
  { s with
    hif := { s.hif with held := some (.read (heldRead phase cycle))
                        holdTimer := if cycle = .opened then some 256 else none }
    ou := s.ou ++ [⟨.heldRead, some 1, []⟩] }

/-- Slot 2 in a state, for target 1 at 1006H. -/
def slotIn (state : SlotState) (s : State) : State :=
  { s with
    fs := s.fs.set 2 { FetchSlot.powerOn with
      state := state, offset := 0x1006, lanes := .both, notify := true, target := 1 }
    ou := if state.holdsRequest then s.ou ++ [⟨.fetch 2, some 1, []⟩] else s.ou }

/-- An access to target 1 at 1006H. -/
def access (id : RequestId) (half : Half) (phase : BusPhase) (result : Option AccessResult) :
    Access :=
  { request := id, target := 1, address := 0x1006, lanes := .low, half := half, data := 0x0011
    phase := phase, strobeCount := 0, setup := 1, strobe := 4, hold := 1, readySense := true
    timeout := 1, result := result }

def withAccess (a : Access) (s : State) : State :=
  { s with dbe := { s.dbe with access := some a, turnaround := none } }

/-- The bus free to be granted. -/
def idle (s : State) : State := { s with dbe := { s.dbe with turnaround := none } }

/-- The bus free to be granted, after an arrival of this kind. -/
def freed (f : Freeing) (s : State) : State := { idle s with freed := some f }

/-- The end of the access of a request. -/
def ending (id : RequestId) (half : Half) (result : AccessResult) (s : State) : State :=
  withAccess (access id half .hold (some result)) s

/-- Comparator 3 watching 1004H to 1007H, count 1. -/
def watching (action : WatchAction) (s : State) : State :=
  { s with wu := s.wu.set 3 { Comparator.powerOn with
      offset := 0x1004, size := .four, remaining := 1, action := action, armed := true } }

/-- A fence, PN 1, with an empty wait-set. -/
def fenceAlone (notify : Bool) : State :=
  { base with
    wq := { entries := [.fence ⟨1, notify⟩], nextPn := 2, lastFenceRetired := 0 }
    ou := [⟨.entry 1, none, []⟩] }

/-- Target 1 holds an attention record. -/
def withRecord (r : AttentionRecord) (s : State) : State :=
  { s with au := s.au.set 1 { high := true, record := some r } }

/-! ## One or two tests for each command, by the rules of the manual -/

theorem test_apertureWrite_makes_an_entry : after (.apertureWrite 0x1006 .half 0xBEEF) base (fun t =>
    t.wq.entries == [.write ⟨1, 1, 0x1006, .both, 0xBEEF, .queued, false, false⟩]
      && t.hif.replies == [.apertureWrite 0x1006 (.ready 0)]) = true := by decide

/-- R27: a byte for the other lane of the tail entry's halfword. -/
theorem test_apertureWrite_merges : after (.apertureWrite 0x1007 .byte 0xAB00) (oneWrite .queued)
    (fun t => t.wq.entries ==
      [.write { write1006 1 .queued with lanes := .both, data := 0xAB11 }] && t.wq.nextPn == 2)
    = true := by decide

theorem test_heldWriteRecheck_enters : after .heldWriteRecheck
    (let s := holdingWrite (oneWrite .queued); { s with hif := { s.hif with recheckDue := true } })
    (fun t => t.wq.entries.length == 2 && t.hif.held == none && t.wq.nextPn == 3) = true := by decide

theorem test_heldWriteHoldExpired_refuses : after .heldWriteHoldExpired (holdingWrite full) (fun t =>
    t.hif.held == none
      && t.nq.records == [⟨0, .notice (.refused 1 0x1008 .holdExpired .write)⟩]) = true := by decide

theorem test_stretchedCycleTaken_is_a_new_arrival : after .stretchedCycleTaken
    { base with hif := { base.hif with stretched := [.read 0x3000 .byte] } } (fun t =>
    t.hif.stretched == [] && t.nq.records == [⟨0, .notice (.decodeMiss 0x3000 .noWindow .read)⟩])
    = true := by decide

theorem test_apertureRead_is_held : after (.apertureRead 0x0003 .byte) base (fun t =>
    t.hif.held == some (.read ⟨0, 0x0003, .high, .waiting, false, none, .opened⟩)
      && t.hif.holdTimer == some 256 && t.hif.replies == []) = true := by decide

theorem test_apertureRead_odd_halfword_misses : after (.apertureRead 0x1007 .half) base (fun t =>
    t.nq.records == [⟨0, .notice (.decodeMiss 0x1007 .width .read)⟩]) = true := by decide

theorem test_holdExpiryWaiting_departs : after .holdExpiryWaiting (holdingRead .waiting .opened base)
    (fun t => t.ou == [] && t.nq.records == [⟨0, .notice (.refused 1 0x1006 .holdExpired .read)⟩])
    = true := by decide

theorem test_holdExpiryIssued_keeps_the_record :
    after .holdExpiryIssued (holdingRead .issued .opened base) (fun t =>
      t.hif.held == some (.read (heldRead .issued .ended)) && t.nq.records == []
        && t.hif.replies == [.apertureRead 0x1006 .busError]) = true := by decide

theorem test_registerWindowBusError : after (.registerWindowBusError true 0x08 .byte) base (fun t =>
    t.hif.replies == [.registerWindow .busError] && t.bc.config == base.bc.config) = true := by decide

theorem test_registerWrite_is_discarded : after (.registerWrite 0x00 0xFFFFFFFF) base (fun t =>
    t.readRegister 0x00 == 0x02460001) = true := by decide

/-- Section 12.5. -/
theorem test_window_and_timing_of_target_five :
    after (.window 5 0x00805000) State.reset (fun t => t.readRegister 0xD0 == 0x00805000
        && t.targets[5].staged.readySense && t.targets[5].live == .powerOn)
      && after (.timing 5 0x08000141) State.reset (fun t => t.targets[5].staged.timeout == 8
        && t.targets[5].staged.strobe == 4) = true := by decide

/-- R124: count 0 disarms, and the word reads back with its programmed count. -/
theorem test_watchComparator_count_zero_disarms : after (.watchComparator 3 0x8002200A)
    (watching .halt base) (fun t => t.wu[3].armed == false && t.readRegister 0x3C == 0x0002200A)
    = true := by decide

theorem test_noticeSelect : after (.noticeSelect 0xFFFFFFFF) base (fun t =>
    t.readRegister 0x28 == 0x00000FFE) = true := by decide

theorem test_eventSummary_clears_ones : after (.eventSummary 0x0002)
    { base with nq := { base.nq with summary := 0x1002 } } (fun t => t.nq.summary == 0x1000)
    = true := by decide

theorem test_bridgeConfiguration : after (.bridgeConfiguration 0x000105FF) base (fun t =>
    t.bc.config == ⟨0xFF, 5, true⟩) = true := by decide

theorem test_noticePop_removes_the_head : after (.noticePop 7)
    { base with nq := { base.nq with records := [⟨0, .notice .quiesced⟩, ⟨1, .overflow 3⟩] } }
    (fun t => t.nq.records == [⟨1, .overflow 3⟩]) = true := by decide

/-- R90: lanes High name the odd offset. -/
theorem test_request_waits : after (.request 2 0x00021006) base (fun t =>
    t.fs[2].state == .waiting && t.fs[2].offset == 0x1007
      && t.ou == [⟨.fetch 2, some 1, []⟩]) = true := by decide

theorem test_request_decode_miss : after (.request 0 0x00103000) base (fun t =>
    t.fs[0].state == .failed && t.fs[0].result == .decodeMiss
      && t.nq.records == [⟨0, .notice (.fetchFailed 0 none .decodeMiss)⟩]) = true := by decide

theorem test_release_waiting_departs : after (.release 2 0) (slotIn .waiting base) (fun t =>
    t.fs[2].state == .free && t.ou == []) = true := by decide

/-- Section 12.5: the overlap shown in Command Status for target 5 against target 2 is 00025D01H; here
target 2's power-on window meets target 0's. -/
theorem test_enable_overlap : after (.enable 2) base (fun t =>
    t.readRegister 0x0C == 0x00005D01 && !(t.admission 2).enabled) = true := by decide

/-- Section 12.5. -/
theorem test_enable_accepted : after (.enable 5)
    { State.reset with targets := State.reset.targets.set 5 {
        staged := (TargetConfig.powerOn.writeWindow 0x00805000).writeTiming 0x08000141
        live := .powerOn, admission := .disabled } }
    (fun t => t.readRegister 0x0C == 0x00000101 && t.readRegister 0xD8 == 0x00000001)
    = true := by decide

theorem test_disable_busy_with_a_write_entry : after (.disable 1) (oneWrite .queued) (fun t =>
    t.bc.status == ⟨0x02, .refusedBusy, .writeEntry⟩) = true := by decide

theorem test_fence_waits_for_everything : after (.fence true)
    (holdingRead .waiting .opened (oneWrite .queued)) (fun t =>
    t.ou.getLast? == some ⟨.entry 2, none, [.entry 1, .heldRead]⟩
      && t.bc.status == ⟨0x03, .accepted, .number 2⟩) = true := by decide

theorem test_resume_clears_failed : after (.resume 1)
    (withAdmission (.halted (.writeTimeout 1 0x1006 .low 0x0011))
      { oneWrite .queued with wq := { (oneWrite .queued).wq with
          entries := [.write { write1006 1 .queued with begun := true, failed := true }] } })
    (fun t => t.wq.entries == [.write { write1006 1 .queued with begun := true }]
      && t.admission 1 == .opened && t.bc.status.detail == .number 1) = true := by decide

theorem test_skip_refused_by_cause : after (.skip 1)
    (withAdmission (.halted (.watch (some 1) 0x1006 .low 0 2)) base) (fun t =>
    t.bc.status == ⟨0x05, .refusedState, .watch⟩) = true := by decide

theorem test_skip_removes_the_failed_entry : after (.skip 1)
    (withAdmission (.halted (.writeTimeout 1 0x1006 .low 0x0011)) (oneWrite .queued)) (fun t =>
    t.wq.entries == [] && t.ou == [] && t.admission 1 == .opened) = true := by decide

theorem test_discard_counts_the_removed : after (.discard 1) full (fun t =>
    t.wq.entries == [] && t.bc.status == ⟨0x06, .accepted, .number 8⟩) = true := by decide

theorem test_quiesce_straight_to_quiesced : after .quiesce base (fun t =>
    t.bc.state == .quiesced && t.nq.records == [⟨0, .notice .quiesced⟩]) = true := by decide

theorem test_openBridge_from_quiescing : after .openBridge (inState .quiescing (oneWrite .queued))
    (fun t => t.bc.state == .running && t.bc.status.detail == .quiescing) = true := by decide

theorem test_clear_ends_a_held_write : after .clear (holdingWrite full) (fun t =>
    t.bc.state == .clearing && t.hif.replies.head? == some (.apertureWrite 0x1008 .busError)
      && t.nq.records == []) = true := by decide

theorem test_unknownCommand : after (.unknownCommand 0xFF) base (fun t =>
    t.readRegister 0x0C == 0x0000A5FF) = true := by decide

/-- R51: the held read goes before an older write entry. -/
theorem test_issueGrant_prefers_the_read : after .issueGrant
    (idle <| holdingRead .waiting .opened { oneWrite .queued with
      wq := { (oneWrite .queued).wq with entries := [.write { write1006 1 .queued with target := 0 }] }
      ou := [⟨.entry 1, some 0, []⟩] }) (fun t =>
    t.dbe.access.any fun a => a.request == .heldRead && a.half == .whole && a.phase == .setup)
    = true := by decide

theorem test_setupComplete : after .setupComplete
    (withAccess (access (.entry 1) .whole .setup none) (oneWrite .issued)) (fun t =>
    t.busPins.writeStrobe && t.busPins.select == some 1) = true := by decide

theorem test_strobeTimeReached_takes_the_data : after (.strobeTimeReached 0xABCD)
    (withAccess { access .heldRead .whole .strobe none with lanes := .both, readySense := false }
      (holdingRead .issued .opened base)) (fun t =>
    t.dbe.access.any fun a => a.phase == .hold && a.result == some .done && a.data == 0xABCD)
    = true := by decide

/-- R65: no sample before the strobe time. -/
theorem test_readySampledHigh_not_before_the_strobe_time :
    after (.readySampledHigh 3 0) (withAccess (access (.entry 1) .whole .strobe none)
        (oneWrite .issued)) (fun t => t.dbe.access.any (·.phase == .strobe))
      && after (.readySampledHigh 64 0) (withAccess (access (.entry 1) .whole .strobe none)
        (oneWrite .issued)) (fun t => t.dbe.access.any (·.result == some .done)) = true := by decide

theorem test_accessTimeout : after .accessTimeout
    (withAccess (access (.entry 1) .whole .strobe none) (oneWrite .issued)) (fun t =>
    t.dbe.access.any fun a => a.result == some .timeout && a.strobeCount == 64) = true := by decide

theorem test_accessEnd_retires : after .accessEnd
    (ending (.entry 1) .whole .done (oneWrite .issued)) (fun t =>
    t.wq.entries == [] && t.ou == [] && t.dbe.recovery[1] == some 8 && t.dbe.access == none)
    = true := by decide

/-- R66 with R80: the read's two bytes, by lane. -/
theorem test_accessEnd_returns_the_data : after .accessEnd
    (withAccess { access .heldRead .whole .hold (some .done) with lanes := .both, data := 0xABCD }
      (holdingRead .issued .opened base)) (fun t =>
    t.hif.replies == [.apertureRead 0x1006 (.ready 0x0000ABCD)] && t.dbe.turnaround == some 1)
    = true := by decide

theorem test_timers_expire :
    after (.recoveryTimerExpires 7) { base with dbe := { base.dbe with
        recovery := Vector.replicate 8 (some 4) } } (fun t =>
        t.dbe.recovery[7] == none && t.dbe.recovery[6] == some 4)
      && after .turnaroundTimerExpires { base with dbe := { base.dbe with turnaround := some 7 } }
        (fun t => t.dbe.turnaround == none) = true := by decide

theorem test_fenceRetired : after .fenceRetired (fenceAlone true) (fun t =>
    t.wq.lastFenceRetired == 1 && t.wq.entries == []
      && t.nq.records == [⟨0, .notice (.fenceRetired 1)⟩]) = true := by decide +kernel

/-- R28: a write for the halfword of an entry whose grant RESUME has just brought about is merged. -/
theorem test_write_is_merged_before_the_grant : after (.apertureWrite 0x1007 .byte 0x2200)
    (freed .other (oneWrite .queued)) (fun t => t.dbe.access == none
      && t.wq.entries == [.write { write1006 1 .queued with lanes := .both, data := 0x2211 }])
    = true := by decide

/-- R53: a write is granted on its own arrival, before CLEAR; R150: after an access end CLEAR finds the
bus free. -/
theorem test_clear_finds_the_bus_free_after_an_access_end_alone :
    (after .clear (idle (oneWrite .queued)) (fun t => t.dbe.access.isSome)
      && after .clear (freed .accessEnd (oneWrite .queued)) (fun t => t.dbe.access.isNone)) = true := by
  decide

theorem test_attentionEvent_is_held_behind_writes : after (.attentionEvent 1) (oneWrite .queued)
    (fun t => t.au[1] == ⟨true, some ⟨1, false, [1]⟩⟩ && t.nq.records == []) = true := by decide

theorem test_attentionRecordReleased : after (.attentionRecordReleased 1)
    (withRecord ⟨15, true, []⟩ base) (fun t => t.au[1].record == none
      && t.nq.records == [⟨0, .notice (.attention 1 15 true)⟩]) = true := by decide

theorem test_quiesced : after .quiesced (inState .quiescing base) (fun t =>
    t.bc.state == .quiesced && t.nq.records == [⟨0, .notice .quiesced⟩]) = true := by decide

theorem test_clearTakesEffect_opens_a_halted_target : after .clearTakesEffect
    (inState .clearing (withAdmission (.halted (.readTimeout 0x1006 .low)) (oneWrite .queued)))
    (fun t => t.admission 1 == .opened && t.wq.entries == [] && t.wq.nextPn == 2
      && t.bc.state == .running) = true := by decide +kernel

theorem test_powerOnReset_keeps_the_first_sample : after (.powerOnReset 0x80) (oneWrite .queued)
    (fun t => t.au[7].high && !t.au[0].high && t.readRegister 0x10 == 0x00010001) = true := by decide

theorem test_attentionInputEdge_of_a_disabled_target : after (.attentionInputEdge 2) base (fun t =>
    t.au[2].high && t.nq.records == []) = true := by decide

/-- Section 12.4: the register values after power-on reset. -/
theorem test_power_on_registers : State.reset.readRegister 0xD0 = 0
    ∧ State.reset.readRegister 0xD4 = 0x10000141 ∧ State.reset.readRegister 0x30 = 0x00100000
    ∧ State.reset.readRegister 0x08 = 0x00000110 := by decide

/-- Section 12.4, written out by hand: a full queue with a held write, and a Watch Hit at the head. -/
theorem test_status_and_head_words :
    let s := { base with nq := { base.nq with records :=
      [⟨0x14, .notice (.watchHit 3 5 0x2001 .high 0xAB00 .write (some 7) true)⟩] } }
    (holdingWrite full).readRegister 0x04 = 0x00000180
      ∧ s.readRegister 0x18 = 0x19035814 ∧ s.readRegister 0x1C = 0xAB002001
      ∧ s.readRegister 0x20 = 0x00000007 ∧ s.readRegister 0x04 = 0x00000400 := by decide

/-! ## States and operands that meet the statements' hypotheses

One theorem for each statement that has hypotheses, one conjunct or group for each of its clauses. -/

/-- CLEAR has arrived while an access was in flight. -/
def clearingState : State :=
  inState .clearing (withAccess (access (.entry 1) .whole .strobe none) (oneWrite .issued))

/-- QUIESCE has arrived with a write entry present. -/
def quiescingState : State := inState .quiescing (oneWrite .queued)

/-- Target 1 is Halted by Read Timeout. -/
def haltedState : State := withAdmission (.halted (.readTimeout 0x1006 .low)) base

/-- A departure has left a held write to be re-checked. -/
def recheckIn (s : State) : State :=
  let h := holdingWrite s
  { h with hif := { h.hif with recheckDue := true } }

/-- Target 2 Disabled with this staged configuration. -/
def staging (c : TargetConfig) (s : State) : State :=
  { s with targets := s.targets.set 2 { staged := c, live := .powerOn, admission := .disabled } }

/-- A write entry of target 0, PN 1, and behind it a held read of target 1. -/
def readBehindWrite : State :=
  let s := oneWrite .queued
  holdingRead .waiting .opened { s with
    wq := { s.wq with entries := [.write { write1006 1 .queued with target := 0 }] }
    ou := [⟨.entry 1, some 0, []⟩] }

theorem opened_not_halted {s : State} {t : Target} (h : s.admission t = .opened)
    (fault : FaultRecord) : s.admission t ≠ .halted fault := by rw [h]; nofun

theorem nothing_waits {u : State} (h : (u.wq.entries.all fun e => !e.isFence) = true)
    (hb : u.bc.state ≠ .quiescing) : nothingWaitsForDrain u :=
  ⟨fun _ hf => by simpa [QueueEntry.isFence] using List.all_eq_true.mp h _ hf, hb⟩

theorem no_tail {u : State} {t : Target} {offset : Offset} (h : u.wq.entries = [])
    (older : List QueueEntry) (e : WriteEntry) (he : u.wq.entries = older ++ [.write e]) :
    ¬ mayMerge u e t offset := by simp [h] at he

theorem tail_elsewhere {u : State} {t : Target} {offset : Offset} (x : WriteEntry)
    (h : u.wq.entries.getLast? = some (.write x))
    (hx : x.offset &&& 0xFFFE#16 ≠ offset &&& 0xFFFE#16)
    (older : List QueueEntry) (e : WriteEntry) (he : u.wq.entries = older ++ [.write e]) :
    ¬ mayMerge u e t offset := by
  simp only [he, List.getLast?_append, List.getLast?_singleton, Option.some_or, Option.some.injEq,
    QueueEntry.write.injEq] at h
  subst h
  exact fun m => hx m.2.2.2.2.2.1

theorem may_merge {u : State} {e : WriteEntry} {t : Target} {offset : Offset}
    (h : (u.live t).coalesce = true ∧ e.target = t ∧ e.progress = .queued ∧ e.begun = false
      ∧ e.failed = false ∧ e.offset &&& 0xFFFE#16 = offset &&& 0xFFFE#16
      ∧ ∀ r ∈ u.ou, r.waitSet = [])
    (hx : ∀ x : Target, u.au[x].record = none) : mayMerge u e t offset := by
  obtain ⟨h1, h2, h3, h4, h5, h6, h7⟩ := h
  refine ⟨h1, h2, h3, h4, h5, h6, fun r hr k _ hm => ?_, fun x r hr => ?_⟩
  · rw [h7 r hr] at hm; cases hm
  · rw [hx x] at hr; cases hr

theorem not_sharing {c d : TargetConfig} (h : windowsMeet c d = false) : ¬ shareOffset c d := by
  rintro ⟨o, h1, h2⟩
  simp [windowsMeet] at h
  omega

theorem not_overflowed {q : NoticeQueue} (h : q.overflowCount? = none) :
    ¬ ∃ older sequence count, q.records = older ++ [⟨sequence, .overflow count⟩] := by
  rintro ⟨older, sequence, count, hq⟩
  simp [NoticeQueue.overflowCount?, hq] at h

theorem witness_StepTakesFrontCommand :
    ({ base with pending := [.quiesce, .openBridge] } : State).pending = .quiesce :: [.openBridge]
      ∧ base.pending = [] := by decide

/-- A state with one request that the arbiter grants. -/
def granting (s : State) (r : PresentRequest) : Prop :=
  s.departureDues = [] ∧ (s.hif.stretched = [] ∨ s.hif.held ≠ none) ∧ busFree s ∧ chosen s r

theorem granting_of {s : State} {r : PresentRequest} (h : s.departureDues = [])
    (hs : s.hif.stretched = []) (hb : s.dbe.access = none ∧ s.dbe.turnaround = none)
    (hc : s.bc.state ≠ .clearing) (ho : s.ou = [r]) (he : s.eligible r = true) : granting s r :=
  ⟨h, .inl hs, ⟨hb.1, hb.2, hc⟩, [], [], ho, he, nofun, nofun⟩

theorem witness_ArrivalsFindNothingDue : Settled (oneWrite .queued)
    ∧ (granting (idle (oneWrite .queued)) ⟨.entry 1, some 1, []⟩
      ∧ (idle (oneWrite .queued)).freed = none)
    ∧ (∀ f : Freeing, granting (freed f (holdingRead .waiting .opened base)) ⟨.heldRead, some 1, []⟩
      ∧ granting (freed f (slotIn .waiting base)) ⟨.fetch 2, some 1, []⟩)
    ∧ ∀ f : Freeing, let s := freed f (oneWrite .queued)
      granting s ⟨.entry 1, some 1, []⟩ ∧ s.freed = some f ∧ hifFree s ∧ s.bc.state = .running
      ∧ (∀ p ∈ [(0x1007#16, Lanes.high), (0x1008#16, .low)], s.decode p.1 .byte = .hit 1 p.2)
      ∧ s.admission 1 = .opened ∧ s.wq.entries = [] ++ [.write (write1006 1 .queued)]
      ∧ mayMerge s (write1006 1 .queued) 1 0x1007
      ∧ ¬ mayMerge s (write1006 1 .queued) 1 0x1008 :=
  ⟨by decide, ⟨granting_of (by decide) rfl (by decide) (by decide) rfl (by decide), rfl⟩,
    fun f => by
      cases f <;>
        exact ⟨granting_of (by decide) rfl (by decide) (by decide) rfl (by decide),
          granting_of (by decide) rfl (by decide) (by decide) rfl (by decide)⟩,
    fun f => by
      unfold hifFree
      cases f <;>
        exact ⟨granting_of (by decide) rfl (by decide) (by decide) rfl (by decide), rfl, by decide,
          by decide, by decide, by decide, rfl, may_merge (by decide) (by decide),
          fun h => absurd h.2.2.2.2.2.1 (by decide)⟩⟩

/-- Target 1's access by slot 2 in its strobe phase, ready sense as given. -/
def strobing (ready : Bool) : State :=
  withAccess { access (.fetch 2) .whole .strobe none with readySense := ready } (slotIn .issued base)

/-- The hold timer has been stopped. -/
def timerStopped (s : State) : State := { s with hif := { s.hif with holdTimer := none } }

theorem witness_EventsWithoutTheirCause :
    (Settled base ∧ base.heldWrite? = none ∧ base.heldRead? = none ∧ base.dbe.access = none)
    ∧ (∀ s ∈ [holdingWrite full, holdingRead .waiting .opened base, holdingRead .issued .opened base],
      Settled (timerStopped s) ∧ (timerStopped s).hif.holdTimer = none)
    ∧ (Settled (holdingRead .issued .opened base)
      ∧ (holdingRead .issued .opened base).heldRead? = some (heldRead .issued .opened))
    ∧ (Settled (holdingRead .waiting .opened base)
      ∧ (holdingRead .waiting .opened base).heldRead? = some (heldRead .waiting .opened))
    ∧ (Settled (holdingRead .issued .ended base)
      ∧ (holdingRead .issued .ended base).heldRead? = some (heldRead .issued .ended))
    ∧ (∀ ready : Bool, Settled (strobing ready) ∧ ∃ a, (strobing ready).dbe.access = some a
      ∧ a.phase = .strobe ∧ a.phase ≠ .setup ∧ a.phase ≠ .hold ∧ a.readySense = ready
      ∧ 3 < a.strobe.toNat ∧ a.timeout.toNat * 64 < 65) := by
  exact ⟨by decide, by decide, by decide, by decide, by decide,
    fun ready => by
      cases ready <;>
        exact ⟨by decide, _, rfl, by decide, by decide, by decide, rfl, by decide, by decide⟩⟩

theorem witness_HostCyclesSpellCommands :
    cycleSize 0b0111 ≠ .word ∧ cycleSize 0b1111 = .word
    ∧ (∀ offset ∈ [0x01#8, 0x0A#8, 0xFF#8], offset.toNat % 4 ≠ 0)
    ∧ (∀ offset ∈ [0x44#8, 0x7C#8], 0x40 ≤ offset.toNat ∧ offset.toNat < 0x80
      ∧ (offset.toNat % 16 = 4 ∨ offset.toNat % 16 = 12))
    ∧ (∀ offset ∈ [0x88#8, 0xFC#8],
      0x80 ≤ offset.toNat ∧ (offset.toNat % 16 = 8 ∨ offset.toNat % 16 = 12))
    ∧ (∀ code : Fin 9, let v : Word := 0x501#32 + BitVec.ofNat 32 code.val
        v.extractLsb' 8 3 = BitVec.ofNat 3 (5 : Target).val
          ∧ v.extractLsb' 0 8 = BitVec.ofNat 8 (code.val + 1))
    ∧ ((0x700#32 : Word).extractLsb' 8 3 = BitVec.ofNat 3 (7 : Target).val
        ∧ (0x700#32 : Word).extractLsb' 0 8 = 0x00#8)
    ∧ (0x0A#8 ≤ (0x70A#32 : Word).extractLsb' 0 8 ∧ 0x0A#8 ≤ (0x7FF#32 : Word).extractLsb' 0 8)
    ∧ (0x00001007#32 : Word).extractLsb' 16 2 = 0#2 ∧ (0x00011007#32 : Word).extractLsb' 16 2 = 1#2
    ∧ (0x00021006#32 : Word).extractLsb' 16 2 = 2#2
    ∧ (0x00031007#32 : Word).extractLsb' 16 2 = 3#2 := by decide

theorem witness_WrittenRegistersReadBack :
    (∃ t, exec (.window 1 0x07F81000) base = .next t) ∧ (0x07F81000#32 : Word).extractLsb' 16 4 = 8#4
    ∧ (∃ t, exec (.window 7 0x00871000) base = .next t)
    ∧ (∃ t, exec (.timing 1 0xFFFFFFFF) base = .next t)
    ∧ (∃ t, exec (.bridgeConfiguration 0xFFFFFFFF) base = .next t)
    ∧ (∃ t, exec (.noticeSelect 0xFFFFFFFF) base = .next t)
    ∧ ∃ t, exec (.watchComparator 3 0x000F0000) base = .next t :=
  ⟨⟨_, rfl⟩, by decide, ⟨_, rfl⟩, ⟨_, rfl⟩, ⟨_, rfl⟩, ⟨_, rfl⟩, ⟨_, rfl⟩⟩

theorem witness_PlainRegisterCycles : CycleSize.unsized ≠ .word
    ∧ ∀ offset ∈ [0x00#8, 0x03#8, 0x4C#8, 0xFC#8], takesNoWrite offset := by
  unfold takesNoWrite; decide

/-- A Notice Queue of n Quiesced records. -/
def queueOf (n : Nat) : NoticeQueue :=
  { State.reset.nq with
    records := (List.range n).map fun i => ⟨BitVec.ofNat 8 i, .notice .quiesced⟩
    sequence := BitVec.ofNat 8 n }

theorem witness_BridgeRegistersShowState : base.wq.entries = []
    ∧ (full.wq.entries = .write (write1006 1 .queued)
        :: [2, 3, 4, 5, 6, 7, 8].map fun pn => .write (write1006 pn .queued))
    ∧ (full.wq.entries.length ≤ 8
      ∧ ({ full with nq := (queueOf 15).enter (.overflow 1) } : State).nq.records.length ≤ 16)
    ∧ (0x0E#8 : BitVec 8).toNat % 4 ≠ 0
    ∧ ∀ offset ∈ [0x40#8, 0x7C#8],
      0x40 ≤ offset.toNat ∧ offset.toNat < 0x80 ∧ offset.toNat % 16 ≠ 4 := by decide

theorem witness_NoticeHeadAndResultShowRecords : base.nq.records = []
    ∧ (queueOf 15).records = ⟨0, .notice .quiesced⟩
        :: ((List.range 14).map fun i => ⟨BitVec.ofNat 8 (i + 1), .notice .quiesced⟩) := by decide

/-- Target 1 with an admission state and the fullest attention record. -/
def shown (a : Admission) : State := withRecord ⟨15, true, [1]⟩ (withAdmission a base)

theorem shown_count (a : Admission) (r : AttentionRecord)
    (h : (shown a).au[(1 : Target)].record = some r) : r.count ≤ 15 := by
  have hr : (shown a).au[(1 : Target)].record = some ⟨15, true, [1]⟩ := rfl
  rw [hr] at h
  cases h
  decide

theorem witness_TargetStatusShowsFaultRecord :
    (∀ a r, (shown a).au[(1 : Target)].record = some r → r.count ≤ 15)
    ∧ (∀ a, (shown a).au[(1 : Target)].record = some ⟨15, true, [1]⟩)
    ∧ (base.au[(1 : Target)].record = none
        ∧ ∀ r, base.au[(1 : Target)].record = some r → r.count ≤ 15)
    ∧ (shown .disabled).admission 1 = .disabled ∧ (shown .opened).admission 1 = .opened
    ∧ (shown (.halted (.writeTimeout 0xFFFF 0xFFFF .high 0xFF00))).admission 1 =
        .halted (.writeTimeout 0xFFFF 0xFFFF .high 0xFF00)
    ∧ (shown (.halted (.readTimeout 0x1006 .both))).admission 1 = .halted (.readTimeout 0x1006 .both)
    ∧ (shown (.halted (.fetchTimeout 0x1006 .low 3))).admission 1 =
        .halted (.fetchTimeout 0x1006 .low 3)
    ∧ (shown (.halted (.watch none 0x1006 .low 0x0011 3))).admission 1 =
        .halted (.watch none 0x1006 .low 0x0011 3) :=
  ⟨shown_count, fun _ => rfl, ⟨by decide, fun _ h => by cases h⟩, by decide, by decide, by decide,
    by decide, by decide, by decide⟩

theorem windowsWf_base : WindowsWf base := by unfold WindowsWf liveConfigWf; decide +kernel

theorem witness_DecodeByLiveWindows : WindowsWf base ∧ (0x1007#16 : Offset).toNat % 2 = 1
    ∧ (0x1006#16 : Offset).toNat % 2 = 0 := ⟨windowsWf_base, by decide, by decide⟩

theorem witness_Departures : base.au[(1 : Target)].record = none
    ∧ (withRecord ⟨1, false, [1]⟩ base).au[(1 : Target)].record = some ⟨1, false, [1]⟩ := by decide

/-- The HIF takes a cycle at once. -/
theorem free_base : hifFree (arrive base) := by unfold hifFree; decide

theorem witness_ApertureWriteChecks :
    (let u := arriveAtWrite 0x1000 .half 0 clearingState;
      hifFree u ∧ u.bc.state = .clearing)
    ∧ (∀ p ∈ [(0x2000#16, CycleSize.byte, NoticeCause.noWindow), (0x0FFF#16, .byte, .noWindow),
        (0x1007#16, .half, .width)],
      let u := arriveAtWrite p.1 p.2.1 0 base
      hifFree u ∧ u.bc.state ≠ .clearing ∧ u.decode p.1 p.2.1 = .miss p.2.2)
    ∧ (let u := arriveAtWrite 0x1FFF .byte 0 haltedState;
      hifFree u ∧ u.bc.state ≠ .clearing ∧ u.decode 0x1FFF .byte = .hit 1 .high
      ∧ u.admission 1 = .halted (.readTimeout 0x1006 .low))
    ∧ (let u := arriveAtWrite 0x1000 .half 0 quiescingState;
      hifFree u ∧ u.bc.state = .quiescing ∧ u.decode 0x1000 .half = .hit 1 .both
      ∧ ∀ fault, u.admission 1 ≠ .halted fault) := by
  unfold hifFree
  exact ⟨by decide, by decide, by decide, by decide, by decide, by decide,
    opened_not_halted (by decide)⟩

/-- The second state has a grant due to the entry, which the write comes before. -/
theorem witness_AdmittedWriteMerged : ∀ s ∈ [oneWrite .queued, freed .other (oneWrite .queued)],
    let u := arriveAtWrite 0x1007 .byte 0x2200 s
    hifFree u ∧ u.bc.state = .running ∧ u.decode 0x1007 .byte = .hit 1 .high
      ∧ u.admission 1 = .opened ∧ WriteQueueWf u.wq
      ∧ u.wq.entries = [] ++ [.write (write1006 1 .queued)]
      ∧ mayMerge u (write1006 1 .queued) 1 0x1007 := by
  intro s hs
  unfold hifFree WriteQueueWf
  refine ⟨?_, ?_, ?_, ?_, ?_, ?_, may_merge ?_ ?_⟩ <;> revert s <;> decide

/-- A queue whose Next PN is the largest, and one whose only entry holds Next PN. -/
def lastPn : State := { base with wq := { entries := [], nextPn := 0xFFFF, lastFenceRetired := 0 } }

def heldPn : State :=
  { oneWrite .queued with
    wq := { entries := [.write (write1006 1 .queued)], nextPn := 1, lastFenceRetired := 0 } }

theorem witness_AdmittedWriteEnteredOrHeld :
    (let u := arriveAtWrite 0x1006 .half 0 lastPn;
      hifFree u ∧ u.bc.state = .running ∧ u.decode 0x1006 .half = .hit 1 .both
      ∧ u.admission 1 = .opened
      ∧ (∀ older e, u.wq.entries = older ++ [.write e] → ¬ mayMerge u e 1 0x1006)
      ∧ hasRoom u.wq)
    ∧ (let u := arriveAtWrite 0x1008 .byte 0 full;
      hifFree u ∧ u.bc.state = .running ∧ u.decode 0x1008 .byte = .hit 1 .low
      ∧ u.admission 1 = .opened
      ∧ (∀ older e, u.wq.entries = older ++ [.write e] → ¬ mayMerge u e 1 0x1008)
      ∧ ¬ hasRoom u.wq)
    ∧ (let u := arriveAtWrite 0x1008 .byte 0 heldPn;
      hifFree u ∧ u.bc.state = .running ∧ u.decode 0x1008 .byte = .hit 1 .low
      ∧ u.admission 1 = .opened
      ∧ (∀ older e, u.wq.entries = older ++ [.write e] → ¬ mayMerge u e 1 0x1008)
      ∧ ¬ hasRoom u.wq) := by
  unfold hifFree hasRoom
  exact ⟨⟨by decide, by decide, by decide, by decide, no_tail (by decide), by decide⟩,
    ⟨by decide, by decide, by decide, by decide,
      tail_elsewhere (write1006 8 .queued) (by decide) (by decide), by decide⟩,
    by decide, by decide, by decide, by decide,
    tail_elsewhere (write1006 1 .queued) (by decide) (by decide), by decide⟩

theorem witness_HeldWriteRecheck :
    (∀ s ∈ [recheckIn (oneWrite .queued), recheckIn full, recheckIn quiescingState,
        recheckIn (inState .quiescing full), recheckIn (inState .quiesced base), recheckIn haltedState],
      s.heldWrite? = some heldWrite ∧ s.hif.recheckDue = true)
    ∧ (hasRoom (recheckIn (oneWrite .queued)).wq ∧ ¬ hasRoom (recheckIn full).wq
      ∧ ∀ s ∈ [recheckIn (oneWrite .queued), recheckIn full],
        s.bc.state = .running ∧ s.admission heldWrite.target = .opened)
    ∧ (∀ s ∈ [recheckIn quiescingState, recheckIn (inState .quiescing full),
        recheckIn (inState .quiesced base)],
      (s.bc.state = .quiescing ∨ s.bc.state = .quiesced)
        ∧ ({ newStep s with hif := { (newStep s).hif with
            held := none, holdTimer := none, recheckDue := false } } : State).departureDues = [])
    ∧ ¬ hasRoom (recheckIn (inState .quiescing full)).wq
    ∧ (recheckIn haltedState).bc.state = .running
      ∧ (∃ fault, (recheckIn haltedState).admission heldWrite.target = .halted fault)
      ∧ ({ newStep (recheckIn haltedState) with hif := { (newStep (recheckIn haltedState)).hif with
          held := none, holdTimer := none, recheckDue := false } } : State).departureDues = [] := by
  unfold hasRoom
  exact ⟨by decide, by decide, by decide, by decide, by decide,
    ⟨.readTimeout 0x1006 .low, by decide⟩, by decide⟩

/-- Two cycles are stretched. -/
def stretching (s : State) : State :=
  { s with hif := { s.hif with stretched := [.write 0x1006 .byte 0x11, .read 0x3000 .byte] } }

theorem witness_StretchedCycles : ¬ hifFree (arriveAtWrite 0x1000 .byte 0 (holdingWrite full))
    ∧ ¬ hifFree (arrive (holdingWrite full))
    ∧ (let s := stretching (idle (oneWrite .queued)); s.departureDues = [] ∧ s.grantDue = true
      ∧ s.freed = none)
    ∧ (∀ s ∈ [stretching base, stretching clearingState,
        stretching (inState .clearing (holdingRead .issued .ended base)),
        stretching (holdingWrite full), stretching (freed .other (oneWrite .queued))],
      s.departureDues = [] ∧ (s.grantDue = true → s.freed ≠ none) ∧ s.hif.stretched = .write 0x1006 .byte 0x11 :: [.read 0x3000 .byte])
    ∧ ((stretching base).hif.held = none
      ∧ Settled { stretching base with
        hif := { (stretching base).hif with stretched := [] }, dbe := base.dbe })
    ∧ ((stretching clearingState).bc.state = .clearing ∧ (stretching clearingState).hif.held = none
      ∧ Settled { stretching clearingState with
        hif := { (stretching clearingState).hif with stretched := [] }, dbe := clearingState.dbe })
    ∧ (let s := stretching (inState .clearing (holdingRead .issued .ended base));
      s.bc.state = .clearing ∧ s.dbe.access = none)
    ∧ (stretching (holdingWrite full)).hif.held ≠ none
      ∧ (stretching (holdingWrite full)).bc.state ≠ .clearing := by
  unfold hifFree; decide

theorem witness_ApertureReadArrival :
    (hifFree (arrive clearingState) ∧ (arrive clearingState).bc.state = .clearing)
    ∧ (hifFree (arrive base) ∧ (arrive base).bc.state ≠ .clearing
      ∧ (arrive base).decode 0x1000 .word = .miss .width)
    ∧ (hifFree (arrive haltedState) ∧ (arrive haltedState).bc.state ≠ .clearing
      ∧ (arrive haltedState).decode 0x1006 .half = .hit 1 .both
      ∧ (arrive haltedState).admission 1 = .halted (.readTimeout 0x1006 .low))
    ∧ ∀ s ∈ [base, quiescingState], hifFree (arrive s)
      ∧ (arrive s).bc.state ≠ .clearing ∧ (arrive s).decode 0x1006 .half = .hit 1 .both
      ∧ (arrive s).admission 1 = .opened := by unfold hifFree; decide

theorem witness_HoldExpiry : ((arrive (holdingWrite full)).heldWrite? = some heldWrite
      ∧ (arrive (holdingWrite full)).hif.holdTimer = some 256)
    ∧ (∀ s ∈ [holdingRead .waiting .opened base, freed .other (holdingRead .waiting .opened base)],
      (arriveAtExpiry s).heldRead? = some (heldRead .waiting .opened)
      ∧ (arriveAtExpiry s).hif.holdTimer = some 256
      ∧ (heldRead .waiting .opened).phase = .waiting
      ∧ nothingWaitsForDrain (arriveAtExpiry s))
    ∧ (arrive (holdingRead .issued .opened base)).heldRead? = some (heldRead .issued .opened)
      ∧ (arrive (holdingRead .issued .opened base)).hif.holdTimer = some 256
      ∧ (heldRead .issued .opened).phase = .issued ∧ (heldRead .issued .opened).cycle = .opened :=
  ⟨by decide, fun s hs => ⟨by revert s; decide, by revert s; decide, by decide,
    nothing_waits (by revert s; decide) (by revert s; decide)⟩, by decide⟩

theorem witness_FetchRequest :
    (arrive (slotIn .done base)).fs[(2 : SlotNo)].state ≠ .free
    ∧ ((arrive clearingState).fs[(2 : SlotNo)].state = .free
      ∧ (arrive clearingState).bc.state = .clearing)
    ∧ ((arrive base).fs[(2 : SlotNo)].state = .free ∧ (arrive base).bc.state ≠ .clearing)
    ∧ (requestLanes 0x00031007 = .both ∧ (requestOffset 0x00031007).toNat % 2 = 1)
    ∧ (arrive base).decodeLanes (requestOffset 0x00002000) (requestLanes 0x00002000) =
        .miss .noWindow
    ∧ (let v : Word := 0x00131FFE
      ¬ (requestLanes v = .both ∧ (requestOffset v).toNat % 2 = 1)
      ∧ (arrive base).decodeLanes (requestOffset v) (requestLanes v) = .hit 1 (requestLanes v)
      ∧ (arrive base).admission 1 = .opened
      ∧ (arrive haltedState).fs[(2 : SlotNo)].state = .free
      ∧ (arrive haltedState).bc.state ≠ .clearing
      ∧ (arrive haltedState).decodeLanes (requestOffset v) (requestLanes v) = .hit 1 (requestLanes v)
      ∧ (arrive haltedState).admission 1 = .halted (.readTimeout 0x1006 .low)) := by decide

theorem witness_FetchRelease : ∀ state ∈ [SlotState.free, .waiting, .issued, .cancelling, .done,
    .failed], ∀ s ∈ [slotIn state base, freed .accessEnd (slotIn state base)],
      (arriveAtRelease 2 s).fs[(2 : SlotNo)].state = state := by decide

theorem witness_ClearingAndUnknownCodesRefuse : commandCode (.fence true) = some 0x03
    ∧ commandCode (.unknownCommand 0xFF) = some 0xFF
    ∧ (∀ c ∈ [Instr.fence true, .discard 1, .clear, .unknownCommand 0xFF],
      (metBy c clearingState).bc.state = .clearing)
    ∧ (∀ code ∈ [0x0A#8, 0xFF#8], 0x0A#8 ≤ code) ∧ (arrive base).bc.state ≠ .clearing := by decide

theorem witness_RefusedCommandChangesOnlyStatus : commandCode (.enable 1) = some 0x01
    ∧ ∃ t, exec (.enable 1) base = .next t ∧ t.bc.status.result ≠ .accepted :=
  ⟨by decide, _, rfl, by decide⟩

theorem witness_EnableCommand :
    let at1K := { displayConfig with base := 0x0A00, size := .s1K }
    let noStrobe := { displayConfig with strobe := 0 }
    let noTimeout := { displayConfig with timeout := 0 }
    let inside := { displayConfig with base := 0x1FFF &&& 0xFF00, size := .s256 }
    let clear := { displayConfig with base := 0x2000 }
    (∀ s ∈ [base, haltedState, staging at1K base, staging noStrobe base, staging noTimeout base,
        staging inside base, staging clear base], (arrive s).bc.state ≠ .clearing)
    ∧ (arrive base).admission 1 = .opened
    ∧ (arrive haltedState).admission 1 = .halted (.readTimeout 0x1006 .low)
    ∧ ((arrive (staging at1K base)).admission 2 = .disabled
      ∧ at1K.base.toNat % at1K.size.bytes ≠ 0)
    ∧ (noStrobe.base.toNat % noStrobe.size.bytes = 0 ∧ noStrobe.strobe = 0)
    ∧ (noTimeout.base.toNat % noTimeout.size.bytes = 0 ∧ noTimeout.strobe ≠ 0
      ∧ noTimeout.timeout = 0)
    ∧ (inside.base.toNat % inside.size.bytes = 0 ∧ inside.strobe ≠ 0 ∧ inside.timeout ≠ 0
      ∧ ((arrive (staging inside base)).admission 1).enabled
      ∧ shareOffset inside ((arrive (staging inside base)).live 1)
      ∧ ∀ y < (1 : Target), ((arrive (staging inside base)).admission y).enabled →
          ¬ shareOffset inside ((arrive (staging inside base)).live y))
    ∧ clear.base.toNat % clear.size.bytes = 0 ∧ clear.strobe ≠ 0 ∧ clear.timeout ≠ 0
      ∧ ∀ x : Target, ((arrive (staging clear base)).admission x).enabled →
          ¬ shareOffset clear ((arrive (staging clear base)).live x) := by
  refine ⟨by decide, by decide, by decide, by decide, by decide, by decide,
    ⟨by decide, by decide, by decide, by decide, ⟨0x1FFF, by decide⟩, fun y hy _ => ?_⟩,
    by decide, by decide, by decide, fun x hx => ?_⟩
  · exact not_sharing (by revert y; decide)
  · exact not_sharing (by revert x; decide)

theorem no_access {l : List State} {t : Target} (h : ∀ s ∈ l, (arrive s).dbe.access = none) :
    ∀ s ∈ l, ¬ ∃ a, (arrive s).dbe.access = some a ∧ a.target = t :=
  fun s hs ⟨_, ha, _⟩ => by rw [h s hs] at ha; cases ha

theorem no_cycle {l : List State} {t : Target} (h : ∀ s ∈ l, (arrive s).hif.held = none) :
    ∀ s ∈ l, ¬ ((∃ w, (arrive s).heldWrite? = some w ∧ w.target = t)
      ∨ ∃ r, (arrive s).heldRead? = some r ∧ r.target = t) := by
  intro s hs
  simp [State.heldWrite?, State.heldRead?, h s hs]

theorem no_entry {l : List State} {t : Target} (h : ∀ s ∈ l, (arrive s).wq.entries = []) :
    ∀ s ∈ l, ¬ ∃ e, .write e ∈ (arrive s).wq.entries ∧ e.target = t := by
  intro s hs
  simp [h s hs]

theorem witness_DisableCommand :
    let flying := withAccess (access (.entry 1) .whole .strobe none) (oneWrite .issued)
    let fetching := slotIn .cancelling base
    let recorded := withRecord ⟨1, false, [1]⟩ base
    (∀ s ∈ [base, flying, holdingWrite full, holdingRead .waiting .opened base, full, fetching,
      recorded], (arrive s).bc.state ≠ .clearing ∧ (arrive s).admission 1 ≠ .disabled)
    ∧ (arrive base).admission 2 = .disabled
    ∧ (∃ a, (arrive flying).dbe.access = some a ∧ a.target = 1)
    ∧ (∃ w, (arrive (holdingWrite full)).heldWrite? = some w ∧ w.target = 1)
    ∧ (∃ r, (arrive (holdingRead .waiting .opened base)).heldRead? = some r ∧ r.target = 1)
    ∧ (∀ s ∈ [base, holdingWrite full, holdingRead .waiting .opened base, full, fetching, recorded],
      ¬ ∃ a, (arrive s).dbe.access = some a ∧ a.target = 1)
    ∧ (∀ s ∈ [base, full, fetching, recorded],
      ¬ ((∃ w, (arrive s).heldWrite? = some w ∧ w.target = 1)
        ∨ ∃ r, (arrive s).heldRead? = some r ∧ r.target = 1))
    ∧ (∃ e, .write e ∈ (arrive full).wq.entries ∧ e.target = 1)
    ∧ (∀ s ∈ [base, fetching, recorded], ¬ ∃ e, .write e ∈ (arrive s).wq.entries ∧ e.target = 1)
    ∧ (∃ k : SlotNo, (arrive fetching).fs[k].target = 1
        ∧ (arrive fetching).fs[k].state = .cancelling)
    ∧ (∀ s ∈ [base, recorded], ¬ ∃ k : SlotNo, (arrive s).fs[k].target = 1
        ∧ ((arrive s).fs[k].state = .waiting ∨ (arrive s).fs[k].state = .issued
          ∨ (arrive s).fs[k].state = .cancelling))
    ∧ (arrive recorded).au[(1 : Target)].record ≠ none
    ∧ (arrive base).au[(1 : Target)].record = none :=
  ⟨by decide, by decide, ⟨_, rfl, by decide⟩, ⟨_, rfl, by decide⟩, ⟨_, rfl, by decide⟩,
    no_access (by decide), no_cycle (by decide), ⟨write1006 1 .queued, by decide⟩,
    no_entry (by decide), by decide, by decide, by decide, by decide⟩

theorem witness_FenceCommand : (arrive full).bc.state ≠ .clearing ∧ ¬ hasRoom (arrive full).wq
    ∧ (arrive lastPn).bc.state ≠ .clearing ∧ hasRoom (arrive lastPn).wq := by
  unfold hasRoom; decide

/-- Target 1 Halted for each cause. -/
def haltedBy (f : FaultRecord) : State := withAdmission (.halted f) (oneWrite .queued)

theorem witness_ResumeAndSkipCommands :
    ((arrive base).bc.state ≠ .clearing ∧ (arrive base).admission 2 = .disabled
      ∧ (arrive base).admission 1 = .opened)
    ∧ (∀ f ∈ [FaultRecord.writeTimeout 1 0x1006 .low 0x0011, .readTimeout 0x1006 .low,
        .fetchTimeout 0x1006 .low 3, .watch none 0x1006 .low 0x0011 3],
      (arrive (haltedBy f)).bc.state ≠ .clearing ∧ (arrive (haltedBy f)).admission 1 = .halted f)
    ∧ ∀ pn offset lanes data,
        FaultRecord.readTimeout 0x1006 .low ≠ .writeTimeout pn offset lanes data :=
  ⟨by decide, by decide, nofun⟩

theorem witness_DiscardCommand :
    let flying := withAccess (access (.entry 1) .whole .strobe none) (oneWrite .issued)
    ((arriveAtDiscard 2 base).bc.state ≠ .clearing ∧ (arriveAtDiscard 2 base).admission 2 = .disabled)
    ∧ ((arriveAtDiscard 1 flying).bc.state ≠ .clearing ∧ (arriveAtDiscard 1 flying).admission 1 ≠ .disabled
      ∧ ∃ a, (arriveAtDiscard 1 flying).dbe.access = some a ∧ a.target = 1)
    ∧ (arriveAtDiscard 1 full).bc.state ≠ .clearing ∧ (arriveAtDiscard 1 full).admission 1 ≠ .disabled
      ∧ ¬ ∃ a, (arriveAtDiscard 1 full).dbe.access = some a ∧ a.target = 1 :=
  ⟨by decide, ⟨by decide, by decide, _, rfl, by decide⟩, by decide, by decide, fun ⟨_, h, _⟩ => nomatch h⟩

theorem witness_QuiesceAndOpenCommands :
    ((arrive base).bc.state = .running ∧ (arrive base).wq.entries = []
      ∧ (arrive base).heldRead? = none ∧ (arrive base).dbe.access = none
      ∧ ∀ k : SlotNo, (arrive base).fs[k].state = .free)
    ∧ ((arrive (oneWrite .queued)).bc.state = .running ∧ (arrive (oneWrite .queued)).wq.entries ≠ [])
    ∧ (arrive quiescingState).bc.state = .quiescing
    ∧ (arrive (inState .quiesced base)).bc.state = .quiesced := by decide

theorem witness_ClearCommand :
    (∀ s ∈ [base, holdingWrite full, holdingRead .waiting .opened base,
      holdingRead .issued .opened base, holdingRead .issued .ended base],
      (arriveAtClear s).bc.state ≠ .clearing)
    ∧ (arriveAtClear base).hif.held = none
    ∧ (arriveAtClear (holdingWrite full)).hif.held = some (.write heldWrite)
    ∧ ∀ p ∈ [(ReadPhase.waiting, CycleState.opened), (.issued, .opened), (.issued, .ended)],
      (arriveAtClear (holdingRead p.1 p.2 base)).hif.held = some (.read (heldRead p.1 p.2))
        ∧ (heldRead p.1 p.2).phase = p.1 ∧ (heldRead p.1 p.2).cycle = p.2 := by decide

theorem witness_ClearTakesEffect :
    let s := inState .clearing (withAdmission (.halted (.readTimeout 0x1006 .low)) full)
    s.bc.state = .clearing ∧ s.dbe.access = none
      ∧ s.admission 2 = .disabled ∧ s.admission 1 ≠ .disabled := by decide

/-- The end of an access of the write entry, the held read or slot 2. -/
def writeEnd (half : Half) (result : AccessResult) : State :=
  ending (.entry 1) half result (oneWrite .issued)

def readEnd (half : Half) (result : AccessResult) (cycle : CycleState) : State :=
  ending .heldRead half result (holdingRead .issued cycle base)

def fetchEnd (half : Half) (result : AccessResult) (state : SlotState) : State :=
  ending (.fetch 2) half result (slotIn state base)

/-- The access that ends. -/
def ended (id : RequestId) (half : Half) (result : AccessResult) : Access :=
  access id half .hold (some result)

/-- The state in which ISSUE_GRANT finds `s`. -/
def deciding (s : State) : State := settleDepartures (newStep s)

theorem witness_IssueGrant :
    ¬ busFree (deciding clearingState)
    ∧ (∀ r ∈ (deciding base).ou, (deciding base).eligible r = false)
    ∧ (∃ r ∈ (deciding (idle (oneWrite .queued))).ou,
      (deciding (idle (oneWrite .queued))).eligible r = true)
    ∧ (let u := deciding (idle (oneWrite .queued))
      busFree u ∧ chosen u ⟨.entry 1, some 1, []⟩ ∧ u.wq.find 1 = some (write1006 1 .queued))
    ∧ (let u := deciding (idle readBehindWrite)
      busFree u ∧ chosen u ⟨.heldRead, some 1, []⟩
      ∧ u.heldRead? = some (heldRead .waiting .opened))
    ∧ (let u := deciding (idle (slotIn .waiting base))
      busFree u ∧ chosen u ⟨.fetch 2, some 1, []⟩) := by
  unfold busFree
  exact ⟨by decide, by decide, by decide,
    ⟨by decide, ⟨[], [], by decide, by decide, nofun, nofun⟩, by decide⟩,
    ⟨by decide, ⟨[⟨.entry 1, some 0, []⟩], [], by decide, by decide, nofun,
      by simp [outranks]⟩,
      by decide⟩,
    by decide, ⟨[], [], by decide, by decide, nofun, nofun⟩⟩

theorem orderWf_readBehindWrite : OrderWf readBehindWrite := by
  refine ⟨?_, ⟨by decide, by decide, ?_, fun _ => by decide, ?_, by decide⟩, ⟨?_, ?_⟩, ?_, ?_⟩
  · unfold WriteQueueWf; decide
  · intro r hr h
    refine ⟨heldRead .waiting .opened, rfl, ?_⟩
    simp only [readBehindWrite, holdingRead, List.cons_append, List.nil_append, List.mem_cons,
      List.not_mem_nil, or_false] at hr
    rcases hr with rfl | rfl
    · cases h
    · rfl
  · decide
  · decide
  · exact fun _ h => nomatch h
  · simp [readBehindWrite, holdingRead, waitsForOlder]
  · unfold waitSetsExact; decide

theorem witness_GrantPassesNothingOrdered : OrderWf readBehindWrite
    ∧ readBehindWrite.eligible ⟨.heldRead, some 1, []⟩ = true
    ∧ readBehindWrite.ou = [⟨.entry 1, some 0, []⟩] ++ ⟨.heldRead, some 1, []⟩ :: [] :=
  ⟨orderWf_readBehindWrite, by decide, by decide⟩

theorem witness_AccessPhasesAndTimers :
    (let a := access (.entry 1) .whole .setup none;
      (arrive (withAccess a (oneWrite .issued))).dbe.access = some a ∧ a.phase = .setup)
    ∧ (let a := { access .heldRead .whole .strobe none with readySense := false };
      (arrive (withAccess a (holdingRead .issued .opened base))).dbe.access = some a
        ∧ a.phase = .strobe ∧ a.readySense = false)
    ∧ (let a := access (.fetch 2) .whole .strobe none;
      (arrive (withAccess a (slotIn .issued base))).dbe.access = some a
        ∧ a.phase = .strobe ∧ a.readySense = true
        ∧ (a.strobe.toNat ≤ 4 ∧ 4 ≤ a.timeout.toNat * 64)
        ∧ a.strobe.toNat ≤ 64 ∧ 64 ≤ a.timeout.toNat * 64) := by decide

theorem witness_PinsFollowTheAccess : base.dbe.access = none
    ∧ (∀ id ∈ [RequestId.entry 1, .heldRead],
      (withAccess (access id .whole .strobe none) base).dbe.access =
        some (access id .whole .strobe none))
    ∧ (access (.entry 1) .whole .strobe none).request = .entry 1
    ∧ (∀ pn, (access .heldRead .whole .strobe none).request ≠ .entry pn)
    ∧ ∀ lanes : Lanes, ({ access (.entry 1) .whole .strobe none with lanes := lanes } : Access).lanes =
        lanes := ⟨by decide, by decide, rfl, nofun, fun _ => rfl⟩

theorem witness_AccessEndFreesTheBus :
    ((arrive (writeEnd .whole .done)).dbe.access = some (ended (.entry 1) .whole .done)
      ∧ (ended (.entry 1) .whole .done).phase = .hold
      ∧ (∃ pn, (ended (.entry 1) .whole .done).request = .entry pn)
      ∧ (7 : Target) ≠ (ended (.entry 1) .whole .done).target)
    ∧ ((arrive (readEnd .whole .timeout .opened)).dbe.access = some (ended .heldRead .whole .timeout)
      ∧ (ended .heldRead .whole .timeout).phase = .hold
      ∧ ∀ pn, (ended .heldRead .whole .timeout).request ≠ .entry pn)
    ∧ (arrive (inState .clearing (writeEnd .whole .done))).dbe.access =
        some (ended (.entry 1) .whole .done)
      ∧ (arrive (inState .clearing (writeEnd .whole .done))).bc.state = .clearing :=
  ⟨⟨by decide, by decide, ⟨1, rfl⟩, by decide⟩, ⟨by decide, by decide, nofun⟩, by decide⟩

theorem witness_WriteAccessDone : ∀ half ∈ [Half.low, .high, .whole],
    endsWith (arrive (writeEnd half .done)) (ended (.entry 1) half .done) .done
      ∧ (ended (.entry 1) half .done).request = .entry 1
      ∧ (arrive (writeEnd half .done)).wq.find 1 = some (write1006 1 .issued)
      ∧ noneFires (arrive (writeEnd half .done)) (ended (.entry 1) half .done)
      ∧ (ended (.entry 1) half .done).half = half := by
  unfold endsWith noneFires; decide

/-- A write entry's access has timed out while a held write waits behind eight entries. -/
def fullEnd : State :=
  holdingWrite (ending (.entry 1) .whole .timeout { full with
    wq := { full.wq with entries := .write (write1006 1 .issued)
      :: [2, 3, 4, 5, 6, 7, 8].map fun pn => .write (write1006 pn .queued) } })

/-- The same while a held read of the target waits. -/
def readWaits : State := holdingRead .waiting .opened (writeEnd .whole .timeout)

theorem no_held {u : State} {t : Target} (h : u.hif.held = none) : holdsNoneOf u t := by
  simp [holdsNoneOf, State.heldWrite?, State.heldRead?, h]

theorem witness_WriteAccessTimeout :
    (∀ s ∈ [writeEnd .whole .timeout, fullEnd, readWaits],
      endsWith (arrive s) (ended (.entry 1) .whole .timeout) .timeout
        ∧ (arrive s).wq.find 1 = some (write1006 1 .issued) ∧ (arrive s).admission 1 = .opened)
    ∧ (ended (.entry 1) .whole .timeout).request = .entry 1
    ∧ holdsNoneOf (arrive (writeEnd .whole .timeout)) 1
    ∧ ((arrive fullEnd).heldWrite? = some heldWrite ∧ heldWrite.target = 1)
    ∧ (arrive readWaits).heldRead? = some (heldRead .waiting .opened)
      ∧ (heldRead .waiting .opened).target = 1 ∧ (heldRead .waiting .opened).phase = .waiting
      ∧ nothingWaitsForDrain (arrive readWaits) := by
  unfold endsWith
  exact ⟨by decide, rfl, no_held (by decide), by decide, by decide, by decide, by decide,
    nothing_waits (by decide) (by decide)⟩

theorem witness_TimeoutHaltsItsTarget : ∀ p ∈ [(writeEnd .low .timeout, RequestId.entry 1),
      (readEnd .low .timeout .ended, .heldRead), (fetchEnd .low .timeout .cancelling, .fetch 2)],
    endsWith (arrive p.1) (ended p.2 .low .timeout) .timeout
      ∧ (arrive p.1).admission (ended p.2 .low .timeout).target = .opened
      ∧ ∃ t, exec .accessEnd p.1 = .next t := by
  unfold endsWith
  exact fun p hp => ⟨by revert p; decide, by revert p; decide, _, rfl⟩

theorem witness_HeldReadAccessDone :
    (∀ half ∈ [Half.low, .high, .whole], ∀ cycle ∈ [CycleState.opened, .ended],
      endsWith (arrive (readEnd half .done cycle)) (ended .heldRead half .done) .done
        ∧ (ended .heldRead half .done).request = .heldRead
        ∧ (arrive (readEnd half .done cycle)).heldRead? = some (heldRead .issued cycle)
        ∧ (heldRead .issued cycle).cycle = cycle
        ∧ noneFires (arrive (readEnd half .done cycle)) (ended .heldRead half .done))
    ∧ (∀ fault, (arrive (readEnd .low .done .opened)).admission 1 ≠ .halted fault)
    ∧ nothingWaitsForDrain (arrive (readEnd .low .done .ended))
    ∧ (let u := arrive (watching .halt (readEnd .low .done .opened))
      let a := ended .heldRead .low .done
      (endsWith u a .done ∧ a.request = .heldRead
        ∧ u.heldRead? = some (heldRead .issued .opened)
        ∧ u.wu[(3 : ComparatorNo)].fires a = true ∧ u.wu[(3 : ComparatorNo)].action = .halt
        ∧ (∀ m : ComparatorNo, m ≠ 3 → u.wu[m].fires a = false)
        ∧ (heldRead .issued .opened).cycle = .opened ∧ a.half = .low
        ∧ (heldRead .issued .opened).target = a.target ∧ u.admission a.target = .opened)
        ∧ nothingWaitsForDrain u) := by
  unfold endsWith noneFires
  exact ⟨by decide, opened_not_halted (by decide), nothing_waits (by decide) (by decide),
    by decide +kernel, nothing_waits (by decide) (by decide)⟩

theorem witness_HeldReadAccessTimeout : (∀ cycle ∈ [CycleState.opened, .ended],
    let s := readEnd .whole .timeout cycle
    endsWith (arrive s) (ended .heldRead .whole .timeout) .timeout
      ∧ (ended .heldRead .whole .timeout).request = .heldRead
      ∧ (arrive s).heldRead? = some (heldRead .issued cycle) ∧ (arrive s).admission 1 = .opened)
    ∧ ∀ cycle ∈ [CycleState.opened, .ended],
      nothingWaitsForDrain (arrive (readEnd .whole .timeout cycle)) := by
  unfold endsWith
  exact ⟨by decide, fun c hc => nothing_waits (by revert c; decide) (by revert c; decide)⟩

theorem witness_FetchAccessDone : (∀ half ∈ [Half.low, .high, .whole],
    ∀ state ∈ [SlotState.issued, .cancelling], let s := fetchEnd half .done state
    endsWith (arrive s) (ended (.fetch 2) half .done) .done
      ∧ (ended (.fetch 2) half .done).request = .fetch 2
      ∧ noneFires (arrive s) (ended (.fetch 2) half .done)
      ∧ (arrive s).fs[(2 : SlotNo)].state = state)
    ∧ nothingWaitsForDrain (arrive (fetchEnd .whole .done .issued)) := by
  unfold endsWith noneFires
  exact ⟨by decide, nothing_waits (by decide) (by decide)⟩

theorem witness_FetchAccessTimeout : (∀ state ∈ [SlotState.issued, .cancelling],
    ∀ f ∈ [id, holdingWrite, holdingRead .waiting .opened],
    let s := f (fetchEnd .whole .timeout state)
    endsWith (arrive s) (ended (.fetch 2) .whole .timeout) .timeout
      ∧ (ended (.fetch 2) .whole .timeout).request = .fetch 2
      ∧ (arrive s).admission 1 = .opened
      ∧ (arrive s).fs[(2 : SlotNo)].state = state
      ∧ nothingWaitsForDrain (arrive s))
    ∧ (∀ state ∈ [SlotState.issued, .cancelling],
      holdsNoneOf (arrive (fetchEnd .whole .timeout state)) 1)
    ∧ (arrive (holdingWrite (fetchEnd .whole .timeout .issued))).heldWrite? = some heldWrite
    ∧ heldWrite.target = 1
    ∧ (arrive (holdingRead .waiting .opened (fetchEnd .whole .timeout .issued))).heldRead? =
        some (heldRead .waiting .opened)
    ∧ (heldRead .waiting .opened).target = 1 ∧ (heldRead .waiting .opened).phase = .waiting := by
  unfold endsWith
  refine ⟨fun state hs f hf => ?_, fun state hs => no_held (by revert state; decide), by decide,
    by decide, by decide, by decide, by decide⟩
  simp only [List.mem_cons, List.not_mem_nil, or_false] at hs hf
  rcases hs with rfl | rfl <;> rcases hf with rfl | rfl | rfl <;>
    exact ⟨by decide, by decide, by decide, by decide, nothing_waits (by decide) (by decide)⟩

theorem witness_ComparatorMatchAndCount :
    let c := { Comparator.powerOn with
      offset := 0x1004, size := .four, remaining := 1, armed := true }
    let a := ended (.entry 1) .whole .done
    (c.matchesAccess a = true ∧ c.remaining = 1 ∧ c.repeats = false)
    ∧ (({ c with repeats := true } : Comparator).matchesAccess a = true)
    ∧ (({ c with remaining := 15 } : Comparator).matchesAccess a = true ∧ (15#4 : BitVec 4) ≠ 1)
    ∧ ({ c with offset := 0x1008 } : Comparator).matchesAccess a = false
    ∧ ({ c with offset := 0x1000 } : Comparator).matchesAccess a = false
    ∧ ({ c with kind := .read } : Comparator).matchesAccess a = false
    ∧ Comparator.powerOn.matchesAccess a = false := by decide

/-- Comparators 1 and 3 watch 1004H to 1007H, the first with action Notice. -/
def watchingTwice (s : State) : State :=
  let s := watching .halt s
  { s with wu := s.wu.set 1 { s.wu[3] with action := .notice } }

/-- A write entry of target 1 ends Done in a full queue, a write of the target held. -/
def retiresForHeld : State :=
  watching .halt (holdingWrite (ending (.entry 1) .whole .done { full with
    wq := { full.wq with entries := .write (write1006 1 .issued)
      :: [2, 3, 4, 5, 6, 7, 8].map fun pn => .write (write1006 pn .queued) } }))

theorem witness_WatchFiring :
    (∀ p ∈ [(watchingTwice (writeEnd .whole .done), ended (.entry 1) .whole .done),
        (watchingTwice (writeEnd .low .done), ended (.entry 1) .low .done),
        (watchingTwice (readEnd .whole .done .opened), ended .heldRead .whole .done),
        (watchingTwice (fetchEnd .low .done .issued), ended (.fetch 2) .low .done)],
      endsWith (arrive p.1) p.2 .done ∧ haltingOn (arrive p.1) p.2 = some 3
        ∧ (hitsOn (arrive p.1) p.2).length = 2
        ∧ (arrive p.1).admission p.2.target = .opened
        ∧ (freeBus p.2 (arrive p.1)).departureDues = []
        ∧ (let u := arrive p.1
          after .accessEnd { u with wu := u.wu.map fun c => { c with armed := false } }
            (fun t => t.departureDues == [] && t.hif.held == none) = true))
    ∧ (∀ s ∈ [watchingTwice (writeEnd .whole .done), watchingTwice (fetchEnd .low .done .issued)],
      holdsNoneOf (arrive s) 1)
    ∧ (arrive (watchingTwice (readEnd .whole .done .opened))).heldRead? =
        some (heldRead .issued .opened)
    ∧ (ended (.fetch 2) .low .done).half = .low
    ∧ (let u := arrive retiresForHeld
      let a := ended (.entry 1) .whole .done
      let left := leaveQueue [1] false { freeBus a u with
        wu := u.wu.map fun c : Comparator => c.after a, targets := watchedTargets u a }
      endsWith u a .done ∧ a.request = .entry 1 ∧ u.wq.find 1 = some (write1006 1 .issued)
        ∧ a.half ≠ .low ∧ haltingOn u a = some 3
        ∧ hitsOn u a = [.watchHit 3 1 0x1006 .low 0x0011 .write (some 1) true]
        ∧ u.heldWrite? = some heldWrite ∧ heldWrite.target = a.target
        ∧ u.admission a.target = .opened ∧ u.bc.state = .running
        ∧ left.departureDues = [.recheck] ∧ hasRoom left.wq) := by
  unfold endsWith hasRoom
  exact ⟨by decide +kernel, fun s hs => no_held (by revert s; decide), by decide, by decide,
    by decide +kernel⟩

theorem witness_FenceRetires : ∀ notify : Bool, let s := fenceAlone notify
    let f : FenceEntry := ⟨1, notify⟩
    s.bc.state ≠ .clearing ∧ s.wq.entries = [] ++ .fence f :: []
      ∧ s.requestOf (.entry f.pn) = some ⟨.entry 1, none, []⟩
      ∧ f.notify = notify
      ∧ ∀ d ∈ (leaveQueue [f.pn] false { newStep s with
          wq := { (newStep s).wq with lastFenceRetired := f.pn } }).departureDues, d = .fence := by
  decide +kernel

theorem witness_AttentionEdges :
    let event (s : State) : Bool := (arrive s).edgeIsEvent 1
    let off := { oneWrite .queued with
      targets := base.targets.set 1 ⟨displayConfig, { displayConfig with attentionMode := .falling }, .opened⟩ }
    let atOnce := { oneWrite .queued with
      targets := base.targets.set 1 ⟨displayConfig, { displayConfig with attentionOrdering := false }, .opened⟩ }
    (∀ t : Target, t ≠ 1 → ¬ (((arrive base).live t).attentionMode = .both
      ∨ ((arrive base).live t).attentionMode = .rising ∧ (arrive base).au[t].high = false
      ∨ ((arrive base).live t).attentionMode = .falling ∧ (arrive base).au[t].high = true))
    ∧ event off = false
    ∧ (event atOnce = true ∧ ((arrive atOnce).live 1).attentionOrdering = false)
    ∧ (event base = true ∧ ((arrive base).live 1).attentionOrdering = true
      ∧ (arrive base).admission 1 ≠ .disabled ∧ ((arrive base).live 1).attentionMode = .both
      ∧ (arrive base).au[(1 : Target)].record = none ∧ (arrive base).wq.entries = [])
    ∧ (event (oneWrite .queued) = true ∧ (arrive (oneWrite .queued)).au[(1 : Target)].record = none
      ∧ (arrive (oneWrite .queued)).wq.entries = [.write (write1006 1 .queued)])
    ∧ ∀ count ∈ [14, 15], let s := withRecord ⟨count, false, [1]⟩ (oneWrite .queued)
      event s = true ∧ (arrive s).au[(1 : Target)].record = some ⟨count, false, [1]⟩ := by decide

theorem witness_RecordReleasedAndQuiesced :
    (let s := withRecord ⟨15, true, []⟩ base;
      s.au[(1 : Target)].record = some ⟨15, true, []⟩
      ∧ ∀ d ∈ ({ newStep s with
          au := s.au.set 1 { high := true, record := none } } : State).departureDues,
          ∃ x, d = .attention x)
    ∧ (let s := inState .quiescing base;
      s.bc.state = .quiescing ∧ s.wq.entries = [] ∧ s.heldRead? = none ∧ s.dbe.access = none
      ∧ (∀ k : SlotNo, s.fs[k].state = .free ∨ s.fs[k].state = .done ∨ s.fs[k].state = .failed)
      ∧ ({ newStep s with bc := { s.bc with state := .quiesced } } : State).departureDues = []) := by
  decide

theorem witness_NoticeOfferAndInterruptLine :
    ({ State.reset.nq with select := 0x800 } : NoticeQueue).select.getLsbD Notice.quiesced.code = true
    ∧ (queueOf 14).select.getLsbD Notice.quiesced.code = false
    ∧ ((¬ ∃ older sequence count, (queueOf 14).records = older ++ [⟨sequence, .overflow count⟩])
      ∧ (queueOf 14).records.length < 15)
    ∧ ((¬ ∃ older sequence count, (queueOf 15).records = older ++ [⟨sequence, .overflow count⟩])
      ∧ 15 ≤ (queueOf 15).records.length)
    ∧ ∀ count ∈ [254#8, 255#8], ((queueOf 15).enter (.overflow count)).records =
        (queueOf 15).records ++ [⟨15, .overflow count⟩] :=
  ⟨by decide, by decide, ⟨not_overflowed (by decide), by decide⟩,
    ⟨not_overflowed (by decide), by decide⟩, by decide⟩

/-- A command is waiting. -/
def waiting (c : Instr) (s : State) : State := { s with pending := [c] }

theorem witness_StepKeepsNoticeQueueWf :
    NoticeQueueWf ({ waiting .quiesce base with nq := queueOf 15 } : State).nq
      ∧ ∃ t, step { waiting .quiesce base with nq := queueOf 15 } = .next t :=
  ⟨by unfold NoticeQueueWf; exact ⟨by simp [queueOf, List.range, List.range.loop, recordsWf],
    by decide⟩, _, rfl⟩

theorem witness_StepKeepsWriteQueueWf :
    WriteQueueWf (waiting (.apertureWrite 0x1008 .byte 0x22) full).wq
      ∧ ∃ t, step (waiting (.apertureWrite 0x1008 .byte 0x22) full) = .next t :=
  ⟨by unfold WriteQueueWf; decide, _, rfl⟩

theorem witness_StepKeepsWindowsWf : WindowsWf (waiting (.enable 2) base)
    ∧ ∃ t, step (waiting (.enable 2) base) = .next t :=
  ⟨by unfold WindowsWf liveConfigWf; decide +kernel, _, rfl⟩

/-- Before a grant, with comparator 3 armed, a held write and a held attention record. -/
def watched : State :=
  waiting .issueGrant (idle (watching .halt (withRecord ⟨15, false, [1]⟩ (holdingWrite
    (oneWrite .queued)))))

theorem witness_StepKeepsAccessHoldAndRecordWf :
    AccessInFlightWf watched ∧ ComparatorsWf watched ∧ HoldWf watched ∧ AttentionRecordsWf watched
      ∧ ∃ t, step watched = .next t := by
  refine ⟨fun _ h => (by cases h), by unfold ComparatorsWf; decide, ⟨nofun, nofun⟩,
    fun t r h => ?_, _, rfl⟩
  have hr : ∀ t : Target, watched.au[t].record = none
      ∨ t = 1 ∧ watched.au[t].record = some ⟨15, false, [1]⟩ := by decide
  obtain hn | ⟨rfl, hs⟩ := hr t
  · rw [hn] at h; cases h
  · rw [hs] at h
    cases h
    refine ⟨by decide, by decide, by decide, fun pn hp => ?_⟩
    simp only [List.mem_cons, List.not_mem_nil, or_false] at hp
    exact ⟨write1006 1 .queued, by decide, hp.symm, rfl⟩

theorem witness_StepKeepsOrderWf : OrderWf (waiting .issueGrant (idle readBehindWrite))
    ∧ ∃ t, step (waiting .issueGrant (idle readBehindWrite)) = .next t :=
  ⟨orderWf_readBehindWrite, _, rfl⟩

/-- The access of a write entry is about to time out. -/
def owned : State :=
  waiting .accessTimeout (withAccess (access (.entry 1) .whole .strobe none) (oneWrite .issued))

theorem witness_StepKeepsOwnersWf : OwnersWf owned ∧ ∃ t, step owned = .next t := by
  refine ⟨⟨⟨by unfold WriteQueueWf; decide, ⟨by decide, by decide, ?_, fun h => ?_, ?_, by decide⟩,
    ⟨by decide, fun _ h => nomatch h⟩, ⟨by decide, trivial⟩, by unfold waitSetsExact; decide⟩,
    ?_, ⟨?_, ?_⟩, ?_, ?_⟩, _, rfl⟩
  · intro r hr h
    have : ∀ r ∈ owned.ou, r.id ≠ .heldRead := by decide
    exact absurd h (this r hr)
  · cases h
  · intro r hr k h
    have : ∀ r ∈ owned.ou, ∀ k, r.id ≠ .fetch k := by decide
    exact absurd h (this r hr k)
  · intro a h
    cases h
    decide
  · intro a h
    cases h
    exact ⟨⟨⟨.entry 1, some 1, []⟩, by decide, rfl, rfl⟩, ⟨write1006 1 .issued, by decide, rfl⟩,
      by decide⟩
  · intro id h
    refine .inr ⟨_, rfl, ?_⟩
    cases id with
    | entry pn =>
      obtain ⟨e, he, -⟩ := h
      by_cases hp : (1 : PN) = pn
      · rw [← hp]; rfl
      · have : owned.wq.find pn = none := by
          simp only [owned, waiting, withAccess, oneWrite, WriteQueue.find, List.findSome?,
            write1006]
          rw [if_neg hp]
        rw [this] at he
        cases he
    | heldRead => obtain ⟨r, hr, -⟩ := h; cases hr
    | fetch k =>
      have : ∀ k : SlotNo, owned.fs[k].state = .free := by decide
      change owned.fs[k].state = .issued ∨ owned.fs[k].state = .cancelling at h
      rw [this k] at h
      rcases h with h | h <;> cases h
  · intro t pn offset lanes data h
    have : ∀ t : Target, (owned.admission t).isHalted = false := by decide
    have := this t
    rw [h] at this
    cases this
  · intro e he hf
    have : ∀ x ∈ owned.wq.entries, x = .write (write1006 1 .issued) := by decide
    have := this _ he
    cases this
    cases hf

end Sys2Proof.Tests
end

section
/-! The arrival checks of an aperture write: what the HIF does at each check that fails, and the
statement about all four (R23, R25). -/

namespace Sys2Proof.Machine

/-! ## An aperture cycle that finds the HIF free -/

/-- A free HIF takes the arriving cycle at once, and stretches none (R34). -/
theorem apertureArrival_of_hifFree {s : State} (h : hifFree s) (c : ApertureCycle) :
    apertureArrival c s = takeCycle c s := by
  obtain ⟨hheld, hstretched⟩ := h
  simp [apertureArrival, State.hifOccupied, hheld, hstretched]

/-- An aperture write that finds the HIF free is checked and admitted in the state it meets. -/
theorem exec_apertureWrite_of_hifFree {s : State} {offset : Offset} {size : CycleSize} {data : Word}
    (h : hifFree (arriveAtWrite offset size data s)) :
    exec (.apertureWrite offset size data) s
      = .next (takeWrite offset size data (arriveAtWrite offset size data s)) :=
  congrArg Host.Outcome.next (apertureArrival_of_hifFree h (.write offset size data))

/-! ## The ways an aperture write is refused -/

/-- A refusal only ends the host cycle with bus error. -/
theorem refuseWrite_eq (offset : Offset) (s : State) :
    refuseWrite offset s = { s with hif := ending (.apertureWrite offset .busError) s } := rfl

/-- A refusal with a notice ends the host cycle with bus error, and only the Notice Queue sees more of
it. -/
theorem refuseWrite_offer_eq (offset : Offset) (n : Notice) (s : State) :
    refuseWrite offset (offer n s) =
      { s with hif := ending (.apertureWrite offset .busError) s, nq := s.nq.offer n } := rfl

section
variable {s : State} {offset : Offset} {size : CycleSize} {t : Target} {lanes : Lanes}

/-- The first check: the bridge is not Clearing. -/
theorem takeWrite_of_clearing (hc : s.bc.state = .clearing) (data : Word) :
    takeWrite offset size data s = refuseWrite offset s := by
  rw [takeWrite, if_pos hc]

/-- The second check: the offset and size decode to a target. -/
theorem takeWrite_of_miss {cause : NoticeCause} (hc : s.bc.state ≠ .clearing)
    (hd : s.decode offset size = .miss cause) (data : Word) :
    takeWrite offset size data s = refuseWrite offset (offer (.decodeMiss offset cause .write) s) := by
  rw [takeWrite, if_neg hc, hd]

/-- The third check: the target is not Halted. -/
theorem takeWrite_of_halted (hc : s.bc.state ≠ .clearing) (hd : s.decode offset size = .hit t lanes)
    (hh : (s.admission t).isHalted = true) (data : Word) :
    takeWrite offset size data s =
      refuseWrite offset (offer (.refused t offset .halted .write) s) := by
  simp only [takeWrite, if_neg hc, hd, if_pos hh]

/-- The fourth check: the bridge is Running. -/
theorem takeWrite_of_not_running (hc : s.bc.state ≠ .clearing)
    (hd : s.decode offset size = .hit t lanes) (ho : s.admission t = .opened)
    (hr : s.bc.state ≠ .running) (data : Word) :
    takeWrite offset size data s =
      refuseWrite offset (offer (.refused t offset .quiescing .write) s) := by
  have hh : ¬ (s.admission t).isHalted = true := by simp [ho, Admission.isHalted]
  simp only [takeWrite, if_neg hc, hd, if_neg hh, if_pos hr]

/-- A target that decode answers is Open where it is not Halted. -/
theorem opened_of_decode_hit (hd : s.decode offset size = .hit t lanes)
    (hn : ∀ fault, s.admission t ≠ .halted fault) : s.admission t = .opened := by
  refine opened_of_enabled (decode_hit hd).2 (Bool.eq_false_iff.2 fun hh => ?_)
  obtain ⟨fault, hf⟩ := isHalted_iff.1 hh
  exact hn fault hf

end

/-! ## The checks in order -/

/-- Settles O16: one check after another, each with the HIF free and the earlier ones passed. -/
theorem apertureWriteChecks : Obligations.ApertureWriteChecks := by
  unfold Obligations.ApertureWriteChecks
  intro s offset size data u refused hfree
  rw [exec_apertureWrite_of_hifFree hfree]
  refine ⟨fun hc => ?_, fun hc => ⟨fun cause hd => ?_, fun t lanes hd => ⟨fun fault hf => ?_,
    fun hn => ?_⟩⟩⟩
  · rw [takeWrite_of_clearing hc, refuseWrite_eq]
  · rw [takeWrite_of_miss hc hd, refuseWrite_offer_eq]
  · rw [takeWrite_of_halted hc hd (isHalted_iff.2 ⟨fault, hf⟩), refuseWrite_offer_eq]
  · have ho : u.admission t = .opened := opened_of_decode_hit hd hn
    refine ⟨ho, fun hr => ?_⟩
    rw [takeWrite_of_not_running hc hd ho hr, refuseWrite_offer_eq]

end Sys2Proof.Machine
end

section
/-! The Order Unit's two statements: the wait-set an arriving request is given, and when a request is
eligible (R43, R49). -/

namespace Sys2Proof.Machine

/-! ## The wait-set at arrival -/

/-- The members of an arriving request's wait-set are the present requests it waits for. -/
theorem mem_waitSetOf {s : State} {x : Option Target} {m : RequestId} :
    m ∈ s.waitSetOf x ↔ ∃ y ∈ s.ou, y.id = m ∧ s.waitsFor x y.target = true := by
  simp only [State.waitSetOf, List.mem_map, List.mem_filter, and_assoc, and_comm (a := _ = m)]

/-- Settles O14: the arrival appends the request with `waitSetOf`, whose members wait for one of the
five reasons of `waitsFor_iff`. -/
theorem waitSetAtArrival : Obligations.WaitSetAtArrival := by
  unfold Obligations.WaitSetAtArrival
  intro s id x
  refine ⟨s.waitSetOf x, rfl, fun m => ?_⟩
  simp only [mem_waitSetOf, waitsFor_iff]

/-! ## What the owners show -/

/-- The held read is the cycle the HIF holds, where that is a read. -/
theorem heldRead_eq_some_iff {s : State} {r : HeldRead} :
    s.heldRead? = some r ↔ s.hif.held = some (.read r) := by
  unfold State.heldRead?
  split
  · next held => simp [held]
  · next notRead => exact ⟨nofun, fun held => absurd held (notRead r)⟩

/-- Looking up the posting number of a write entry of the queue finds an entry. -/
theorem find_isSome_of_mem {q : WriteQueue} {e : WriteEntry} (h : .write e ∈ q.entries) :
    (q.find e.pn).isSome := by
  unfold WriteQueue.find
  exact List.findSome?_isSome_iff.2 ⟨.write e, h, by simp⟩

/-- Posting numbers are distinct, so looking one up finds the write entry that has it. -/
theorem find_eq_some_iff {q : WriteQueue} (wf : WriteQueueWf q) {pn : PN} {e : WriteEntry} :
    q.find pn = some e ↔ .write e ∈ q.entries ∧ e.pn = pn := by
  refine ⟨find_some, ?_⟩
  rintro ⟨he, rfl⟩
  obtain ⟨-, distinct, -, -⟩ := wf
  obtain ⟨f, hf⟩ := Option.isSome_iff_exists.1 (find_isSome_of_mem he)
  obtain ⟨hfmem, hfpn⟩ := find_some hf
  have same : QueueEntry.write f = .write e := List.inj_on_of_nodup_map distinct hfmem he hfpn
  rw [hf, QueueEntry.write.inj same]

/-- A progress other than Issued is Queued or Low Done. -/
theorem progress_ne_issued_iff {p : Progress} : p ≠ .issued ↔ p = .queued ∨ p = .lowDone := by
  cases p <;> decide

/-- The fourth condition of R49, by the kind of the request. -/
theorem ready_iff {s : State} {id : RequestId} : s.ready id = true ↔
    (∃ pn e, id = .entry pn ∧ s.wq.find pn = some e
        ∧ (e.progress = .queued ∨ e.progress = .lowDone))
      ∨ (∃ h, id = .heldRead ∧ s.heldRead? = some h ∧ h.phase = .waiting)
      ∨ ∃ k, id = .fetch k ∧ s.fs[k].state = .waiting := by
  cases id with
  | entry pn => simp [State.ready, Option.any_eq_true, progress_ne_issued_iff]
  | heldRead => simp [State.ready, Option.any_eq_true]
  | fetch k => simp [State.ready]

/-! ## Eligibility -/

/-- The conditions of R49; a fence has no target, and so never meets those on the target. -/
theorem eligible_iff {s : State} {r : PresentRequest} : s.eligible r = true ↔
    r.waitSet = []
      ∧ (∃ t, r.target = some t ∧ s.admission t = .opened ∧ s.dbe.recovery[t] = none)
      ∧ s.ready r.id = true := by
  obtain ⟨id, target, waitSet⟩ := r
  cases target with
  | none => simp [State.eligible]
  | some t => simp [State.eligible, and_assoc, and_comm, and_left_comm]

/-- Settles O35: the conditions of R49, and what the two lookups they speak of answer. -/
theorem eligibleIff : Obligations.EligibleIff := by
  unfold Obligations.EligibleIff
  intro s r
  have lookups : (∀ h, s.heldRead? = some h ↔ s.hif.held = some (.read h))
      ∧ (WriteQueueWf s.wq → ∀ pn e, s.wq.find pn = some e ↔ .write e ∈ s.wq.entries ∧ e.pn = pn) :=
    ⟨fun _ => heldRead_eq_some_iff, fun wf _ _ => find_eq_some_iff wf⟩
  rw [and_iff_left lookups, eligible_iff, ready_iff]

end Sys2Proof.Machine
end

section
/-! The watch comparators: which accesses one matches, and what an access's end does to it (R123, R126,
R127). -/

namespace Sys2Proof.Machine

/-! ## Which bytes and kinds a comparator takes in -/

/-- The bytes an access carries: one at its address and, on both lanes, the next (R126). -/
theorem mem_carried_iff {a : Access} {o : Nat} :
    o ∈ a.carried ↔ o = a.address.toNat ∨ a.lanes = .both ∧ o = a.address.toNat + 1 := by
  unfold Access.carried
  cases a.lanes <;> simp

/-- The accesses that are Writes are those of write entries (R60). -/
theorem isWrite_iff {a : Access} : a.isWrite = true ↔ ∃ pn, a.request = .entry pn := by
  unfold Access.isWrite
  cases a.request <;> simp

/-- Kind any takes in every access, the two others the Writes and the Reads (R126). -/
theorem takes_iff {kind : WatchKind} {a : Access} : kind.takes a = true ↔
    kind = .any ∨ kind = .write ∧ (∃ pn, a.request = .entry pn)
      ∨ kind = .read ∧ ∀ pn, a.request ≠ .entry pn := by
  cases kind with
  | any => simp [WatchKind.takes]
  | write => simp [WatchKind.takes, isWrite_iff]
  | read => simp [WatchKind.takes, ← Bool.not_eq_true, isWrite_iff]

/-- The watched range is the naturally aligned block of the size that holds the offset (R123). -/
theorem watchedRange_iff_div {c : Comparator} {o : Nat} :
    (c.rangeBase ≤ o ∧ o < c.rangeBase + c.size.bytes)
      ↔ o / c.size.bytes = c.offset.toNat / c.size.bytes := by
  have sizePos : 0 < c.size.bytes := by cases c.size <;> decide
  rw [Nat.div_eq_iff sizePos, Nat.le_sub_one_iff_lt (Nat.add_pos_right _ sizePos),
    Comparator.rangeBase]

/-- The watched range, by the three sizes (R123). -/
theorem watchedRange_iff {c : Comparator} {o : Nat} :
    (c.rangeBase ≤ o ∧ o < c.rangeBase + c.size.bytes) ↔
      (c.size = .one ∧ o = c.offset.toNat)
        ∨ (c.size = .two ∧ o / 2 = c.offset.toNat / 2)
        ∨ (c.size = .four ∧ o / 4 = c.offset.toNat / 4) := by
  rw [watchedRange_iff_div]
  cases c.size <;> simp [WatchSize.bytes]

/-- A comparator matches when armed, its kind takes the access in, and a byte carried is in its range
(R126). -/
theorem matchesAccess_iff {c : Comparator} {a : Access} : c.matchesAccess a = true ↔
    c.armed = true ∧ c.kind.takes a = true
      ∧ ∃ o ∈ a.carried, c.rangeBase ≤ o ∧ o < c.rangeBase + c.size.bytes := by
  simp [Comparator.matchesAccess, and_assoc]

/-! ## Counting and firing -/

/-- A comparator fires on the match that finds one still to be seen (R127). -/
theorem fires_iff {c : Comparator} {a : Access} :
    c.fires a = true ↔ c.matchesAccess a = true ∧ c.remaining = 1 := by
  simp [Comparator.fires]

section
variable {c : Comparator} {a : Access}

/-- On an access that is no match a comparator does not fire (R126, R127). -/
theorem not_fires_of_miss (miss : c.matchesAccess a = false) : c.fires a = false :=
  Bool.eq_false_iff.2 fun fired => Bool.eq_false_iff.1 miss (fires_iff.1 fired).1

/-- A comparator whose remaining count is not 1 does not fire (R127). -/
theorem not_fires_of_more (more : c.remaining ≠ 1) : c.fires a = false :=
  Bool.eq_false_iff.2 fun fired => more (fires_iff.1 fired).2

/-- An access that is no match leaves the comparator as it is. -/
theorem after_of_miss (miss : c.matchesAccess a = false) : c.after a = c := by
  rw [Comparator.after, if_neg (Bool.eq_false_iff.1 (not_fires_of_miss miss)),
    if_neg (Bool.eq_false_iff.1 miss)]

/-- A match on which the comparator does not fire lowers its remaining count (R127). -/
theorem after_of_counts (h : c.matchesAccess a = true) (quiet : c.fires a = false) :
    c.after a = { c with remaining := c.remaining - 1 } := by
  rw [Comparator.after, if_neg (Bool.eq_false_iff.1 quiet), if_pos h]

/-- Firing with repeat on starts the count again (R127). -/
theorem after_of_fires_repeating (h : c.fires a = true) (hr : c.repeats = true) :
    c.after a = { c with remaining := c.count } := by
  rw [Comparator.after, if_pos h, if_pos hr]

/-- Firing with repeat off disarms the comparator (R127). -/
theorem after_of_fires_once (h : c.fires a = true) (hr : c.repeats = false) :
    c.after a = { c with remaining := 0, armed := false } := by
  rw [Comparator.after, if_pos h, if_neg (Bool.eq_false_iff.1 hr)]

end

/-- Settles O48: the three conditions of a match, each spelled out, and the cases of its count. -/
theorem comparatorMatchAndCount : Obligations.ComparatorMatchAndCount := by
  unfold Obligations.ComparatorMatchAndCount
  intro c a
  refine ⟨?_, fun miss => ⟨not_fires_of_miss miss, after_of_miss miss⟩, fun hit more => ?_,
    fun hit last => ?_⟩
  · simp only [matchesAccess_iff, takes_iff, mem_carried_iff, watchedRange_iff]
  · have quiet : c.fires a = false := not_fires_of_more more
    exact ⟨quiet, after_of_counts hit quiet⟩
  · have fired : c.fires a = true := fires_iff.2 ⟨hit, last⟩
    exact ⟨fired, after_of_fires_repeating fired, after_of_fires_once fired⟩

end Sys2Proof.Machine
end

section
/-! The registers of the register window that no write reaches, and the Identification register among
them (R87, R154). -/

namespace Sys2Proof.Machine

/-- A write to the register window that is done ends its host cycle with ready and changes nothing
else (R87). -/
theorem registerReady_eq (s : State) : registerReady s = { s with hif := registerEnds s } := rfl

/-- Where no register takes a write, the value has no way to reach one (R87). -/
theorem commandOfRegisterWrite_of_not_takesWrite {offset : BitVec 8}
    (readOnly : takesWrite offset = false) (value : Word) :
    commandOfRegisterWrite offset value = .registerWrite offset value :=
  if_neg (Bool.eq_false_iff.1 readOnly)

/-- A discarded write ends its host cycle with ready, in the state it meets (R87). -/
theorem exec_registerWrite (offset : BitVec 8) (value : Word) (s : State) :
    exec (.registerWrite offset value) s = .next { arrive s with hif := registerEnds (arrive s) } :=
  congrArg Host.Outcome.next (registerReady_eq (arrive s))

/-- The word at offset 00H is the part's constant, whatever the state (R154). -/
theorem readRegister_identification (s : State) : s.readRegister 0x00#8 = Config.identification :=
  rfl

/-- Settles O5: the word read is a constant, and offset 00H is one that takes no write. -/
theorem identificationIsConstant : Obligations.IdentificationIsConstant := by
  unfold Obligations.IdentificationIsConstant
  have readOnly : takesWrite 0x00#8 = false := by decide
  exact ⟨readRegister_identification, fun value =>
    ⟨commandOfRegisterWrite_of_not_takesWrite readOnly value, exec_registerWrite 0x00#8 value⟩⟩

end Sys2Proof.Machine
end

section
/-! What the owner of a request does with the end of its access: one equation for each case (R35, R69,
R79, R80, R82, R83, R93 to R95, R98, R103). -/

namespace Sys2Proof.Machine

/-! ## The write queue -/

section
variable {s : State} {a : Access} {pn : PN} {e : WriteEntry}

theorem wqTakesEnd_of_low (found : s.wq.find pn = some e) (done : a.result = some .done)
    (low : a.half = .low) :
    wqTakesEnd a pn s = (updateEntry pn (fun e => { e with progress := .lowDone }) s, []) := by
  simp [wqTakesEnd, found, done, low]

theorem wqTakesEnd_of_last (found : s.wq.find pn = some e) (done : a.result = some .done)
    (last : a.half ≠ .low) : wqTakesEnd a pn s = (leaveQueue [pn] false s, []) := by
  simp [wqTakesEnd, found, done, last]

/-- A failed entry goes back to what is left of it to do. -/
def failedEntry (a : Access) (e : WriteEntry) : WriteEntry :=
  { e with progress := if a.half = .high then .lowDone else .queued, failed := true }

theorem wqTakesEnd_of_timeout (found : s.wq.find pn = some e) (timeout : a.result = some .timeout) :
    wqTakesEnd a pn s = (updateEntry pn (failedEntry a) s,
      [⟨.wq, .offer (.writeFault e.target pn a.address a.lanes a.data .timeout)⟩]) := by
  simp only [wqTakesEnd, found, timeout]
  rfl

end

theorem wqTakesEnd_cases (a : Access) (pn : PN) (s : State) :
    ((s.wq.find pn = none ∨ a.result = none) ∧ wqTakesEnd a pn s = (s, []))
      ∨ ∃ e, s.wq.find pn = some e ∧
        ((a.result = some .done ∧ a.half = .low ∧ wqTakesEnd a pn s =
            (updateEntry pn (fun e => { e with progress := .lowDone }) s, []))
          ∨ (a.result = some .done ∧ a.half ≠ .low
            ∧ wqTakesEnd a pn s = (leaveQueue [pn] false s, []))
          ∨ (a.result = some .timeout ∧ wqTakesEnd a pn s = (updateEntry pn (failedEntry a) s,
              [⟨.wq, .offer (.writeFault e.target pn a.address a.lanes a.data .timeout)⟩]))) := by
  cases found : s.wq.find pn with
  | none => exact .inl ⟨.inl rfl, by simp [wqTakesEnd, found]⟩
  | some e =>
    cases result : a.result with
    | none => exact .inl ⟨.inr rfl, by simp [wqTakesEnd, found, result]⟩
    | some r =>
      refine .inr ⟨e, rfl, ?_⟩
      cases r with
      | timeout => exact .inr (.inr ⟨rfl, wqTakesEnd_of_timeout found result⟩)
      | done =>
        by_cases low : a.half = .low
        · exact .inl ⟨rfl, low, wqTakesEnd_of_low found result low⟩
        · exact .inr (.inl ⟨rfl, low, wqTakesEnd_of_last found result low⟩)

/-! ## The Host Interface -/

/-- The held read after its low half is done: Waiting again, the byte kept (R79, R80). -/
def HeldRead.lowTaken (r : HeldRead) (a : Access) : HeldRead :=
  { r with phase := .waiting, lowHalfDone := true, keptLow := some (lowByte a.data) }

/-- The notice of a held read whose access ends Done after its host cycle has Ended (R82). -/
def HeldRead.lateNotice (r : HeldRead) (a : Access) : Notice :=
  if a.half = .low then .lateRead r.target r.offset .low a.data
  else .lateRead r.target r.offset r.lanes (r.bytesWith a)

/-- A held read whose access ends Timeout leaves, its host cycle ended if it is still Open (R83). -/
def timeOutHeldRead (r : HeldRead) (s : State) : State :=
  if r.cycle = .opened then reply (.apertureRead r.offset .busError) (dropHeldRead s)
  else dropHeldRead s

section
variable {s : State} {a : Access} {r : HeldRead}

theorem hifTakesEnd_of_timeout (held : s.heldRead? = some r) (timeout : a.result = some .timeout) :
    hifTakesEnd a s = (timeOutHeldRead r s,
      [⟨.hif, .offer (.readFault r.target r.offset r.lanes .timeout)⟩]) := by
  simp only [hifTakesEnd, held, timeout]
  rfl

theorem hifTakesEnd_of_low_halted (held : s.heldRead? = some r) (done : a.result = some .done)
    (opened : r.cycle = .opened) (low : a.half = .low)
    (halted : (s.admission r.target).isHalted = true) :
    hifTakesEnd a s = haltHeldRead (r.lowTaken a) s := by
  simp only [hifTakesEnd, held, done, opened, low, if_pos halted, HeldRead.lowTaken]

theorem hifTakesEnd_of_low (held : s.heldRead? = some r) (done : a.result = some .done)
    (opened : r.cycle = .opened) (low : a.half = .low)
    (halted : (s.admission r.target).isHalted = false) :
    hifTakesEnd a s = (setHeldRead (r.lowTaken a) s, []) := by
  simp only [hifTakesEnd, held, done, opened, low, halted, HeldRead.lowTaken]
  rfl

theorem hifTakesEnd_of_last (held : s.heldRead? = some r) (done : a.result = some .done)
    (opened : r.cycle = .opened) (last : a.half ≠ .low) :
    hifTakesEnd a s = (reply (.apertureRead r.offset (.ready ((r.bytesWith a).setWidth 32)))
      (dropHeldRead s), []) := by
  cases half : a.half with
  | low => exact absurd half last
  | whole => simp only [hifTakesEnd, held, done, opened, half]
  | high => simp only [hifTakesEnd, held, done, opened, half]

theorem hifTakesEnd_of_ended (held : s.heldRead? = some r) (done : a.result = some .done)
    (ended : r.cycle = .ended) :
    hifTakesEnd a s = (dropHeldRead s, [⟨.hif, .offer (r.lateNotice a)⟩]) := by
  cases half : a.half <;> simp only [hifTakesEnd, held, done, ended, half] <;>
    simp [HeldRead.lateNotice, half]

end

theorem hifTakesEnd_cases (a : Access) (s : State) :
    ((s.heldRead? = none ∨ a.result = none) ∧ hifTakesEnd a s = (s, []))
      ∨ ∃ r, s.heldRead? = some r ∧
        ((a.result = some .timeout ∧ hifTakesEnd a s = (timeOutHeldRead r s,
            [⟨.hif, .offer (.readFault r.target r.offset r.lanes .timeout)⟩]))
          ∨ (r.cycle = .opened ∧ hifTakesEnd a s = haltHeldRead (r.lowTaken a) s)
          ∨ (r.cycle = .opened ∧ (s.admission r.target).isHalted = false
            ∧ hifTakesEnd a s = (setHeldRead (r.lowTaken a) s, []))
          ∨ (∃ data, hifTakesEnd a s =
              (reply (.apertureRead r.offset (.ready data)) (dropHeldRead s), []))
          ∨ ∃ n, hifTakesEnd a s = (dropHeldRead s, [⟨.hif, .offer n⟩])) := by
  cases held : s.heldRead? with
  | none => exact .inl ⟨.inl rfl, by simp [hifTakesEnd, held]⟩
  | some r =>
    cases result : a.result with
    | none => exact .inl ⟨.inr rfl, by simp [hifTakesEnd, held, result]⟩
    | some res =>
      refine .inr ⟨r, rfl, ?_⟩
      cases res with
      | timeout => exact .inl ⟨rfl, hifTakesEnd_of_timeout held result⟩
      | done =>
        refine .inr ?_
        cases cycle : r.cycle with
        | ended => exact .inr (.inr (.inr ⟨_, hifTakesEnd_of_ended held result cycle⟩))
        | opened =>
          by_cases low : a.half = .low
          · cases halted : (s.admission r.target).isHalted with
            | true => exact .inl ⟨rfl, hifTakesEnd_of_low_halted held result cycle low halted⟩
            | false =>
              exact .inr (.inl ⟨rfl, rfl, hifTakesEnd_of_low held result cycle low halted⟩)
          · exact .inr (.inr (.inl ⟨_, hifTakesEnd_of_last held result cycle low⟩))

/-! ## The Fetch Slots -/

/-- The slot after its low half is done (R93). -/
def FetchSlot.lowTaken (r : FetchSlot) (a : Access) : FetchSlot :=
  { r with state := .waiting, lowHalfDone := true, data := a.data }

/-- The bytes of a fetch at its last access's end (R94). -/
def FetchSlot.bytesWith (r : FetchSlot) (a : Access) : LaneWord :=
  if a.half = .high then laneWord (highByte a.data) (lowByte r.data) else a.data

/-- The slot of a completed fetch (R94). -/
def FetchSlot.completed (r : FetchSlot) (a : Access) : FetchSlot :=
  { r with state := .done, result := .done, data := r.bytesWith a, lowHalfDone := false }

/-- The slot of a fetch whose access ends Timeout (R95). -/
def FetchSlot.timedOut (r : FetchSlot) : FetchSlot :=
  { r with state := .failed, result := .timeout, data := 0, lowHalfDone := false }

/-- The notice of slot `r`, where it asks for one (R96). -/
def FetchSlot.notices (r : FetchSlot) (n : Notice) : List Job :=
  if r.notify then [⟨.fs, .offer n⟩] else []

section
variable {s : State} {a : Access} {k : SlotNo}

theorem fsTakesEnd_of_cancelling {result : AccessResult} (state : s.fs[k].state = .cancelling)
    (ended : a.result = some result) :
    fsTakesEnd a k s = (depart [.fetch k] (setSlot k s.fs[k].freed s), []) := by
  simp only [fsTakesEnd, state, ended]

theorem fsTakesEnd_of_timeout (state : s.fs[k].state = .issued)
    (timeout : a.result = some .timeout) :
    fsTakesEnd a k s = (depart [.fetch k] (setSlot k s.fs[k].timedOut s),
      s.fs[k].notices (.fetchFailed k (some s.fs[k].target) .timeout)) := by
  simp only [fsTakesEnd, state, timeout]
  rfl

theorem fsTakesEnd_of_low (state : s.fs[k].state = .issued) (done : a.result = some .done)
    (low : a.half = .low) : fsTakesEnd a k s = (setSlot k (s.fs[k].lowTaken a) s, []) := by
  simp only [fsTakesEnd, state, done, low]
  rfl

theorem fsTakesEnd_of_last (state : s.fs[k].state = .issued) (done : a.result = some .done)
    (last : a.half ≠ .low) :
    fsTakesEnd a k s = (depart [.fetch k] (setSlot k (s.fs[k].completed a) s),
      s.fs[k].notices
        (.fetchDone k s.fs[k].target s.fs[k].offset (s.fs[k].bytesWith a))) := by
  simp only [fsTakesEnd, state, done, if_neg last]
  rfl

end

theorem notices_cases (r : FetchSlot) (n : Notice) :
    r.notices n = [] ∨ r.notices n = [⟨.fs, .offer n⟩] := by
  unfold FetchSlot.notices
  cases r.notify <;> simp

theorem fsTakesEnd_cases (a : Access) (k : SlotNo) (s : State) :
    (((s.fs[k].state ≠ .issued ∧ s.fs[k].state ≠ .cancelling) ∨ a.result = none)
        ∧ fsTakesEnd a k s = (s, []))
      ∨ (s.fs[k].state = .issued ∧ fsTakesEnd a k s = (setSlot k (s.fs[k].lowTaken a) s, []))
      ∨ ∃ r work, (s.fs[k].state = .issued ∨ s.fs[k].state = .cancelling)
        ∧ r.state.holdsRequest = false ∧ (work = [] ∨ ∃ n, work = [⟨.fs, .offer n⟩])
        ∧ fsTakesEnd a k s = (depart [.fetch k] (setSlot k r s), work) := by
  have noticed : ∀ n, s.fs[k].notices n = [] ∨ ∃ m, s.fs[k].notices n = [⟨.fs, .offer m⟩] :=
    fun n => (notices_cases _ n).imp id fun h => ⟨n, h⟩
  cases result : a.result with
  | none =>
    exact .inl ⟨.inr rfl, by cases state : s.fs[k].state <;> simp only [fsTakesEnd, result, state]⟩
  | some res =>
    cases state : s.fs[k].state with
    | cancelling =>
      exact .inr (.inr ⟨_, _, .inr rfl, rfl, .inl rfl, fsTakesEnd_of_cancelling state result⟩)
    | issued =>
      cases res with
      | timeout =>
        exact .inr (.inr ⟨_, _, .inl rfl, rfl, noticed _, fsTakesEnd_of_timeout state result⟩)
      | done =>
        by_cases low : a.half = .low
        · exact .inr (.inl ⟨rfl, fsTakesEnd_of_low state result low⟩)
        · exact .inr (.inr ⟨_, _, .inl rfl, rfl, noticed _, fsTakesEnd_of_last state result low⟩)
    | _ => exact .inl ⟨.inl ⟨nofun, nofun⟩, by simp only [fsTakesEnd, state]⟩

end Sys2Proof.Machine
end

section
/-! How an arrival ends: every response made and every due event taken lowers the bound on the moves
still to come, so that none is left outstanding when the bound is used up (section 1.6.5). -/

namespace Sys2Proof.Machine

/-! ## What makes an event due -/

/-- The condition under which an event is due. -/
def State.holdsFor (s : State) : Due → Prop
  | .fence => ∃ f, s.fenceDue? = some f
  | .attention t => s.attentionDue t = true
  | .recheck => s.recheckIsDue = true
  | .quiesced => s.quiescedDue = true
  | .clear => s.clearDue = true
  | .stretched => s.stretchedDue = true
  | .grant => s.grantDue = true

theorem mem_departureDues {s : State} {d : Due} : d ∈ s.departureDues ↔
    (d = .fence ∧ s.fenceDue?.isSome = true) ∨ (∃ t, d = .attention t ∧ s.attentionDue t = true)
      ∨ (d = .recheck ∧ s.recheckIsDue = true) ∨ (d = .quiesced ∧ s.quiescedDue = true) := by
  simp only [State.departureDues, List.mem_append, List.mem_ite_nil_right, List.mem_singleton,
    List.mem_map, List.mem_filter, mem_allTargets, true_and, and_comm (a := (_ = true)),
    eq_comm (a := Due.attention _), or_assoc]

theorem holdsFor_of_mem_departureDues {s : State} {d : Due} (h : d ∈ s.departureDues) :
    s.holdsFor d := by
  rcases mem_departureDues.1 h with ⟨rfl, h⟩ | ⟨t, rfl, h⟩ | ⟨rfl, h⟩ | ⟨rfl, h⟩
  · exact Option.isSome_iff_exists.1 ‹_›
  all_goals assumption

theorem holdsFor_of_mem_promptDues {s : State} {d : Due} (h : d ∈ s.promptDues) :
    s.holdsFor d := by
  unfold State.promptDues at h
  split at h
  · obtain ⟨own, rfl⟩ : s.ownGrantDue = true ∧ d = .grant := by simpa using h
    exact (Bool.and_eq_true_iff.1 own).1
  · exact holdsFor_of_mem_departureDues h

/-- What is due has its condition. -/
theorem holdsFor_of_mem_dues {s : State} {d : Due} (h : d ∈ s.dues) : s.holdsFor d := by
  unfold State.dues State.duesPassing at h
  split at h
  · simp only [List.mem_append, List.mem_ite_nil_right, List.mem_singleton, Bool.and_eq_true] at h
    obtain (⟨h, rfl⟩ | ⟨h, rfl⟩) | ⟨⟨h, -⟩, rfl⟩ := h <;> exact h
  · exact holdsFor_of_mem_promptDues h

/-- A fence that can retire is an entry of the queue, outside Clearing, whose request waits for
nothing. -/
theorem fenceDue_some {s : State} {f : FenceEntry} (h : s.fenceDue? = some f) :
    s.bc.state ≠ .clearing ∧ .fence f ∈ s.wq.entries
      ∧ ∃ r, s.requestOf (.entry f.pn) = some r ∧ r.waitSet = [] := by
  unfold State.fenceDue? at h
  split at h
  · cases h
  · next running =>
    obtain ⟨entry, present, found⟩ := List.exists_of_findSome?_eq_some h
    cases entry with
    | write e => cases found
    | fence g =>
      cases hr : s.requestOf (.entry g.pn) with
      | none => simp [hr] at found
      | some r =>
        simp only [hr, Option.ite_none_right_eq_some, List.isEmpty_iff, Option.some.injEq] at found
        obtain ⟨empty, rfl⟩ := found
        exact ⟨running, present, r, hr, empty⟩

/-! ## The weight of what is due -/

/-- The records the Attention Unit holds. -/
def State.recordCount (s : State) : Nat := s.au.toList.countP (·.record.isSome)

/-- The fences of the queue. -/
def State.fenceCount (s : State) : Nat := s.wq.entries.countP (·.isFence)

theorem dueWeight_eq (s : State) : s.dueWeight = 4 * s.fenceCount + 2 * s.recordCount
    + (if s.hif.recheckDue then 2 else 0) + (if s.bc.state = .quiescing then 2 else 0)
    + (if s.bc.state = .clearing then 1 else 0) + s.hif.stretched.length
    + (if s.dbe.access.isNone then 1 else 0) := rfl

theorem recordCount_strike (s : State) (pns : List PN) (dropped : Bool) :
    (s.au.map (·.strike pns dropped)).toList.countP (·.record.isSome) = s.recordCount := by
  rw [Vector.toList_map, List.countP_map]
  exact List.countP_congr fun a _ => by simp [AttentionInput.strike]

theorem fenceCount_filter_le (es : List QueueEntry) (p : QueueEntry → Bool) :
    (es.filter p).countP (·.isFence) ≤ es.countP (·.isFence) :=
  (List.filter_sublist (p := p)).countP_le

theorem update_fenceCount (q : WriteQueue) (pn : PN) (f : WriteEntry → WriteEntry) :
    (q.update pn f).entries.countP (·.isFence) = q.entries.countP (·.isFence) := by
  simp only [WriteQueue.update, List.countP_map]
  refine List.countP_congr fun e _ => ?_
  cases e with
  | write e => simp only [Function.comp]; split <;> rfl
  | fence f => rfl

theorem push_write_fenceCount (q : WriteQueue) (e : WriteEntry) :
    (q.push (.write e)).entries.countP (·.isFence) = q.entries.countP (·.isFence) := by
  simp [WriteQueue.push, QueueEntry.isFence]

/-- Entries that leave the queue add at most the re-check they call for. -/
theorem dueWeight_leaveQueue_le (pns : List PN) (dropped : Bool) (s : State) :
    (leaveQueue pns dropped s).dueWeight ≤ s.dueWeight + 2 := by
  have fences : (leaveQueue pns dropped s).fenceCount ≤ s.fenceCount :=
    fenceCount_filter_le s.wq.entries _
  have records : (leaveQueue pns dropped s).recordCount = s.recordCount :=
    recordCount_strike s pns dropped
  have stretched : (leaveQueue pns dropped s).hif.stretched = s.hif.stretched := by
    rw [leaveQueue_hif]; split <;> simp [queueDeparture_eq]
  rw [dueWeight_eq, dueWeight_eq, records, stretched, leaveQueue_bc, leaveQueue_dbe]
  split <;> omega

theorem dueWeight_updateEntry (pn : PN) (f : WriteEntry → WriteEntry) (s : State) :
    (updateEntry pn f s).dueWeight = s.dueWeight := by
  rw [dueWeight_eq, dueWeight_eq, State.fenceCount, updateEntry_wq, update_fenceCount]
  rfl

theorem dueWeight_endHold_le (s : State) : (endHold s).dueWeight ≤ s.dueWeight := by
  have rest : (endHold s).dueWeight = 4 * s.fenceCount + 2 * s.recordCount + 0
      + (if s.bc.state = .quiescing then 2 else 0) + (if s.bc.state = .clearing then 1 else 0)
      + s.hif.stretched.length + (if s.dbe.access.isNone then 1 else 0) := rfl
  rw [rest, dueWeight_eq]
  omega

theorem dueWeight_hold_le (a : HeldAccess) (s : State) : (hold a s).dueWeight ≤ s.dueWeight :=
  dueWeight_endHold_le s

theorem dueWeight_dropHeldRead_le (s : State) : (dropHeldRead s).dueWeight ≤ s.dueWeight :=
  dueWeight_endHold_le s

theorem dueWeight_enterWrite (w : HeldWrite) (s : State) :
    (enterWrite w s).dueWeight = s.dueWeight := by
  rw [dueWeight_eq, dueWeight_eq, State.fenceCount]
  simp only [enterWrite, arriveRequest_wq, push_write_fenceCount]
  rfl

theorem dueWeight_reply (r : HostReply) (s : State) : (reply r s).dueWeight = s.dueWeight := rfl

/-! ## Every move lowers the bound -/

/-- The moves a list of responses can lead to. -/
def jobsWeight (work : List Job) : Nat := (work.map (·.task.weight)).sum

@[simp] theorem jobsWeight_nil : jobsWeight [] = 0 := rfl

@[simp] theorem jobsWeight_cons (j : Job) (js : List Job) :
    jobsWeight (j :: js) = j.task.weight + jobsWeight js := by simp [jobsWeight]

theorem jobsWeight_append (xs ys : List Job) :
    jobsWeight (xs ++ ys) = jobsWeight xs + jobsWeight ys := by simp [jobsWeight]

theorem moveBound_eq (work : List Job) (s : State) :
    moveBound work s = jobsWeight work + s.dueWeight := rfl

theorem jobsWeight_heads {work : List Job} {j : Job} {rest : List Job}
    (h : (j, rest) ∈ heads work) : jobsWeight work = j.task.weight + jobsWeight rest := by
  induction work generalizing j rest with
  | nil => simp [heads] at h
  | cons a as ih =>
    simp only [heads, List.mem_cons, Prod.mk.injEq, List.mem_filterMap] at h
    obtain ⟨rfl, rfl⟩ | ⟨⟨k, r⟩, hk, heq⟩ := h
    · exact jobsWeight_cons j rest
    · split at heq
      · cases heq
      · cases heq
        rw [jobsWeight_cons, jobsWeight_cons, ih hk, Nat.add_left_comm]

/-- The weight of what an operation leaves, with the responses it calls for. -/
def weightOf (r : State × List Job) : Nat := jobsWeight r.2 + r.1.dueWeight

theorem weightOf_haltHeldRead_le (r : HeldRead) (s : State) :
    weightOf (haltHeldRead r s) ≤ s.dueWeight + 1 := by
  have := dueWeight_dropHeldRead_le s
  simp only [weightOf, haltHeldRead, dueWeight_reply, jobsWeight_cons, jobsWeight_nil, Task.weight]
  omega

theorem weightOf_wqTakesEnd_le (a : Access) (pn : PN) (s : State) :
    weightOf (wqTakesEnd a pn s) ≤ s.dueWeight + 2 := by
  have left := dueWeight_leaveQueue_le [pn] false s
  obtain ⟨-, h⟩ | ⟨e, -, ⟨-, -, h⟩ | ⟨-, -, h⟩ | ⟨-, h⟩⟩ := wqTakesEnd_cases a pn s <;>
    simp only [h, weightOf, dueWeight_updateEntry, jobsWeight_cons, jobsWeight_nil, Task.weight] <;>
    omega

theorem weightOf_hifTakesEnd_le (a : Access) (s : State) :
    weightOf (hifTakesEnd a s) ≤ s.dueWeight + 1 := by
  have dropped := dueWeight_dropHeldRead_le s
  have timed : ∀ r, (timeOutHeldRead r s).dueWeight = (dropHeldRead s).dueWeight := by
    intro r
    unfold timeOutHeldRead
    split <;> rfl
  have set : ∀ r, (setHeldRead r s).dueWeight = s.dueWeight := fun _ => rfl
  obtain ⟨-, h⟩ | ⟨r, -, ⟨-, h⟩ | ⟨-, h⟩ | ⟨-, -, h⟩ | ⟨_, h⟩ | ⟨_, h⟩⟩ := hifTakesEnd_cases a s
  case inr.inr.inl => exact h ▸ weightOf_haltHeldRead_le _ s
  all_goals
    simp only [h, weightOf, timed, set, dueWeight_reply, jobsWeight_cons, jobsWeight_nil,
      Task.weight]
    omega

theorem weightOf_fsTakesEnd_le (a : Access) (k : SlotNo) (s : State) :
    weightOf (fsTakesEnd a k s) ≤ s.dueWeight + 1 := by
  have slotted : ∀ r, (setSlot k r s).dueWeight = s.dueWeight := fun _ => rfl
  have departed : ∀ r, (depart [.fetch k] (setSlot k r s)).dueWeight = s.dueWeight := fun _ => rfl
  obtain ⟨-, h⟩ | ⟨-, h⟩ | ⟨r, work, -, -, rfl | ⟨n, rfl⟩, h⟩ := fsTakesEnd_cases a k s <;>
    simp only [h, weightOf, slotted, departed, jobsWeight_cons, jobsWeight_nil, Task.weight] <;>
    omega

/-- A response leads to fewer moves than it weighs. -/
theorem weightOf_runTask_lt (task : Task) (s : State) :
    weightOf (runTask task s) < task.weight + s.dueWeight := by
  cases task with
  | takeEnd a =>
    have wq := fun pn => weightOf_wqTakesEnd_le a pn s
    have hif := weightOf_hifTakesEnd_le a s
    have fs := fun k => weightOf_fsTakesEnd_le a k s
    simp only [runTask, takeEnd, Task.weight]
    split
    · next pn _ => have := wq pn; omega
    · omega
    · next k _ => have := fs k; omega
  | halt t fault =>
    have halted : (s.setAdmission t (.halted fault)).dueWeight = s.dueWeight := rfl
    obtain ⟨-, h⟩ | ⟨-, h⟩ := takeHalt_cases t fault s <;>
      simp only [runTask, h, weightOf, halted, jobsWeight_cons, jobsWeight_nil, Task.weight] <;>
      omega
  | seeHalt t =>
    have held := dueWeight_endHold_le s
    have read := fun r => weightOf_haltHeldRead_le r s
    obtain ⟨w, -, -, h⟩ | ⟨r, -, -, -, h⟩ | h := seeHalt_cases t s
    case inr.inl => simp only [runTask, h, Task.weight]; have := read r; omega
    all_goals
      simp only [runTask, h, weightOf, dueWeight_reply, jobsWeight_cons, jobsWeight_nil, Task.weight]
      omega
  | offer n =>
    have offered : (offer n s).dueWeight = s.dueWeight := rfl
    simp only [runTask, weightOf, offered, jobsWeight_nil, Task.weight]
    omega

/-- A cycle the HIF takes makes nothing due. -/
theorem dueWeight_takeCycle_le (c : ApertureCycle) (s : State) :
    (takeCycle c s).dueWeight ≤ s.dueWeight := by
  obtain ⟨r, h⟩ | ⟨r, n, -, h⟩ | ⟨w, -, -, h⟩ | ⟨t, offset, lanes, -, -, h⟩ := takeCycle_cases c s <;>
    rw [h]
  · exact le_rfl
  · exact le_rfl
  · obtain ⟨e, -, hw⟩ | ⟨-, -, hw⟩ | ⟨-, -, hw⟩ := admitWrite_cases w s <;> rw [hw]
    · exact (dueWeight_updateEntry _ _ s).le
    · exact (dueWeight_enterWrite w s).le
    · exact dueWeight_hold_le _ s
  · exact dueWeight_hold_le _ s

/-- A grant changes the request's owner and nothing else of the part before its access begins. -/
theorem markIssued_frame (id : RequestId) (s : State) :
    ∃ wq hif fs, markIssued id s = { s with wq := wq, hif := hif, fs := fs } := by
  unfold markIssued
  split
  · exact ⟨_, _, _, rfl⟩
  · split <;> exact ⟨_, _, _, rfl⟩
  · exact ⟨_, _, _, rfl⟩

@[simp] theorem markIssued_dbe (id : RequestId) (s : State) : (markIssued id s).dbe = s.dbe := by
  obtain ⟨_, _, _, h⟩ := markIssued_frame id s
  rw [h]

@[simp] theorem markIssued_targets (id : RequestId) (s : State) :
    (markIssued id s).targets = s.targets := by
  obtain ⟨_, _, _, h⟩ := markIssued_frame id s
  rw [h]

/-- The arbiter may grant (R51). -/
theorem mayGrant_iff {s : State} : s.mayGrant = true ↔ busFree s := by
  simp [State.mayGrant, busFree, and_assoc]

/-- The arbiter's choice has a target and an owner, so it is granted. -/
theorem grant_of_eligible {s : State} {r : PresentRequest} (h : s.eligible r = true) :
    ∃ t offset lanes low data, r.target = some t
      ∧ s.requestFields? r.id = some (offset, lanes, low, data)
      ∧ grant r s = { markIssued r.id s with freed := none, dbe := { s.dbe with
          access := some (accessFor r.id t (s.live t) offset lanes low data) } } := by
  obtain ⟨-, ⟨t, target, -⟩, ready⟩ := eligible_iff.1 h
  have fields : ∃ f, s.requestFields? r.id = some f := by
    obtain ⟨pn, e, hid, found, -⟩ | ⟨q, hid, held, -⟩ | ⟨k, hid, -⟩ := ready_iff.1 ready
    · exact ⟨_, by rw [hid, State.requestFields?, found]; rfl⟩
    · exact ⟨_, by rw [hid, State.requestFields?, held]; rfl⟩
    · exact ⟨_, by rw [hid, State.requestFields?]⟩
  obtain ⟨⟨offset, lanes, low, data⟩, fields⟩ := fields
  refine ⟨t, offset, lanes, low, data, target, fields, ?_⟩
  simp only [grant, target, fields, markIssued_dbe, State.live, markIssued_targets]

theorem dueWeight_markIssued (id : RequestId) (s : State) :
    (markIssued id s).dueWeight = s.dueWeight := by
  unfold markIssued
  split
  · exact dueWeight_updateEntry _ _ s
  · split <;> rfl
  · rfl

/-- A fence that retires makes room for the re-check and the notice it calls for. -/
theorem dueWeight_retireFence_le {f : FenceEntry} {s : State} (present : .fence f ∈ s.wq.entries) :
    (retireFence f s).1.dueWeight + 2 ≤ s.dueWeight := by
  have fences : (retireFence f s).1.fenceCount + 1 ≤ s.fenceCount := by
    let kept : QueueEntry → Bool := fun e => !([f.pn] : List PN).contains e.pn
    have gone : 0 < (s.wq.entries.filter fun e => !kept e).countP (·.isFence) :=
      List.countP_pos_iff.2 ⟨_, List.mem_filter.2 ⟨present, by simp [kept, QueueEntry.pn]⟩, rfl⟩
    have all : s.fenceCount = (s.wq.entries.filter kept).countP (·.isFence)
        + (s.wq.entries.filter fun e => !kept e).countP (·.isFence) := by
      rw [← List.countP_append, State.fenceCount]
      exact ((List.filter_append_perm kept s.wq.entries).countP_eq _).symm
    have left : (retireFence f s).1.fenceCount
        = (s.wq.entries.filter kept).countP (·.isFence) := rfl
    omega
  have records : (retireFence f s).1.recordCount = s.recordCount :=
    recordCount_strike s [f.pn] false
  have stretched : (retireFence f s).1.hif.stretched = s.hif.stretched := by
    simp [retireFence, queueDeparture_eq]
  have same : (retireFence f s).1.bc = s.bc ∧ (retireFence f s).1.dbe = s.dbe := ⟨rfl, rfl⟩
  rw [dueWeight_eq, dueWeight_eq, records, stretched, same.1, same.2]
  split <;> omega

theorem attentionDue_iff {s : State} {t : Target} :
    s.attentionDue t = true ↔ ∃ r, s.au[t].record = some r ∧ r.waitSet = [] := by
  simp [State.attentionDue, Option.any_eq_true]

theorem releaseAttention_of_some {s : State} {t : Target} {r : AttentionRecord}
    (h : s.au[t].record = some r) : releaseAttention t s =
      ({ s with au := s.au.set t { s.au[t] with record := none } },
        [⟨.au, .offer (.attention t r.count r.writesDropped)⟩]) := by
  simp only [releaseAttention, h]

theorem weightOf_releaseAttention_lt {s : State} {t : Target} (h : s.attentionDue t = true) :
    weightOf (releaseAttention t s) < s.dueWeight := by
  obtain ⟨r, held, -⟩ := attentionDue_iff.1 h
  have records : (s.au.set t { s.au[t] with record := none }).toList.countP (·.record.isSome) + 1
      = s.recordCount := by
    have held : s.au[t.val].record.isSome = true := by rw [← Fin.getElem_fin, held]; rfl
    have pos : 0 < s.recordCount := List.countP_pos_iff.2 ⟨s.au[t.val], by simp, held⟩
    rw [Vector.toList_set, List.countP_set (by simp)]
    simp only [Vector.getElem_toList, held, if_true, Option.isSome_none, Bool.false_eq_true,
      if_false, Nat.add_zero]
    exact Nat.sub_add_cancel pos
  rw [releaseAttention_of_some held]
  simp only [weightOf, dueWeight_eq, jobsWeight_cons, jobsWeight_nil, Task.weight, ← records]
  simp only [State.fenceCount, State.recordCount]
  omega

theorem recheckIsDue_iff {s : State} : s.recheckIsDue = true ↔
    s.hif.recheckDue = true ∧ ∃ w, s.heldWrite? = some w := by
  simp [State.recheckIsDue, Option.isSome_iff_exists]

/-- The re-check that is due is answered. -/
theorem weightOf_recheckHeldWrite_lt {s : State} (h : s.recheckIsDue = true) :
    weightOf (recheckHeldWrite s) < s.dueWeight := by
  obtain ⟨due, w, held⟩ := recheckIsDue_iff.1 h
  have ended : (endHold s).dueWeight + 2 = s.dueWeight := by
    have rest : (endHold s).dueWeight = 4 * s.fenceCount + 2 * s.recordCount + 0
        + (if s.bc.state = .quiescing then 2 else 0) + (if s.bc.state = .clearing then 1 else 0)
        + s.hif.stretched.length + (if s.dbe.access.isNone then 1 else 0) := rfl
    rw [rest, dueWeight_eq, if_pos due]
    omega
  have kept : ({ s with hif := { s.hif with recheckDue := false } } : State).dueWeight
      = (endHold s).dueWeight := rfl
  obtain ⟨-, e⟩ | ⟨-, -, e⟩ | ⟨-, -, -, e⟩ | ⟨-, -, -, e⟩ := recheckHeldWrite_cases held <;>
    simp only [e, weightOf, refuseHeldWrite, dueWeight_reply, dueWeight_enterWrite, kept,
      jobsWeight_cons, jobsWeight_nil, Task.weight] <;>
    omega

/-- A due event leads to fewer moves than the state it meets. -/
theorem weightOf_runDue_lt {d : Due} {s : State} (h : s.holdsFor d) :
    weightOf (runDue d s) < s.dueWeight := by
  cases d with
  | fence =>
    obtain ⟨f, hf⟩ := h
    obtain ⟨-, present, -⟩ := fenceDue_some hf
    have left := dueWeight_retireFence_le present
    have noticed : jobsWeight (retireFence f s).2 ≤ 1 := by
      cases hn : f.notify <;> simp [retireFence, hn, Task.weight]
    simp only [runDue, hf, weightOf]
    omega
  | attention t => exact weightOf_releaseAttention_lt h
  | recheck => exact weightOf_recheckHeldWrite_lt h
  | quiesced =>
    have quiescing : s.bc.state = .quiescing := by simpa using (Bool.and_eq_true_iff.1 h).1
    have left : (setBridge .quiesced s).dueWeight = 4 * s.fenceCount + 2 * s.recordCount
        + (if s.hif.recheckDue then 2 else 0) + 0 + 0 + s.hif.stretched.length
        + (if s.dbe.access.isNone then 1 else 0) := rfl
    have whole := dueWeight_eq s
    rw [quiescing] at whole
    simp only [runDue, becomeQuiesced, weightOf, left, whole, jobsWeight_cons, jobsWeight_nil,
      Task.weight]
    simp
    omega
  | clear =>
    have clearing : s.bc.state = .clearing := by simpa using (Bool.and_eq_true_iff.1 h).1
    have records : (clearEverything s).recordCount = 0 := by
      simp [State.recordCount, clearEverything, Vector.toList_map]
    have left : (clearEverything s).dueWeight = 4 * 0 + 2 * (clearEverything s).recordCount + 0 + 0
        + 0 + s.hif.stretched.length + (if s.dbe.access.isNone then 1 else 0) := rfl
    have whole := dueWeight_eq s
    rw [clearing] at whole
    simp only [runDue, weightOf, left, records, whole, jobsWeight_nil]
    simp
  | stretched =>
    obtain ⟨c, rest, hs⟩ := List.exists_cons_of_ne_nil (l := s.hif.stretched) fun e => by
      simp [State.holdsFor, State.stretchedDue, e] at h
    have taken := dueWeight_takeCycle_le c { s with
      hif := { s.hif with stretched := rest }
      freed := if s.grantDue then s.freed else none }
    have popped : ({ s with
        hif := { s.hif with stretched := rest }
        freed := if s.grantDue then s.freed else none } : State).dueWeight + 1 = s.dueWeight := by
      rw [dueWeight_eq, dueWeight_eq, hs, List.length_cons]
      simp only [State.fenceCount, State.recordCount]
      omega
    have whole : weightOf (runDue .stretched s) = 0 + (takeStretched s).dueWeight := rfl
    rw [whole, takeStretched_cons hs]
    omega
  | grant =>
    obtain ⟨free, winner⟩ := Bool.and_eq_true_iff.1 h
    obtain ⟨r, hr⟩ := Option.isSome_iff_exists.1 winner
    obtain ⟨t, offset, lanes, low, data, -, -, granted⟩ := grant_of_eligible (winner_mem hr).2
    have begun : (grant r s).dueWeight + 1 = (markIssued r.id s).dueWeight := by
      have idle : (markIssued r.id s).dbe.access.isNone = true := by
        rw [markIssued_dbe, (mayGrant_iff.1 free).1]
        rfl
      rw [granted, dueWeight_eq, dueWeight_eq, idle]
      simp [State.fenceCount, State.recordCount]
    rw [dueWeight_markIssued] at begun
    simp only [runDue, grantChosen, if_pos free, hr, weightOf, jobsWeight_nil]
    omega

/-- Every move lowers the bound on the moves to come. -/
theorem moveBound_makeMove_lt {work : List Job} {dues : List Due} {s : State} {m : Move}
    (hd : ∀ d ∈ dues, s.holdsFor d) (hm : m ∈ moves work dues) (n : Nat) :
    moveBound (makeMove m work { s with choices := n }).2 (makeMove m work { s with choices := n }).1
      < moveBound work s := by
  have same : ({ s with choices := n } : State).dueWeight = s.dueWeight := rfl
  simp only [moves, List.mem_append, List.mem_map, List.mem_filter] at hm
  obtain ⟨⟨j, rest⟩, hj, rfl⟩ | ⟨d, ⟨mem, -⟩, rfl⟩ := hm
  · have lt := weightOf_runTask_lt j.task { s with choices := n }
    have heads := jobsWeight_heads hj
    simp only [makeMove, moveBound_eq, jobsWeight_append, weightOf] at lt ⊢
    omega
  · have lt := weightOf_runDue_lt (s := { s with choices := n }) (d := d) (hd d mem)
    simp only [makeMove, moveBound_eq, jobsWeight_append, weightOf] at lt ⊢
    omega

/-! ## No response is left, and nothing stays due -/

theorem heads_eq_nil {work : List Job} : heads work = [] ↔ work = [] := by
  cases work <;> simp [heads]

theorem jobsWeight_eq_zero {work : List Job} : jobsWeight work = 0 ↔ work = [] := by
  cases work with
  | nil => simp
  | cons j js => cases h : j.task <;> simp [h, Task.weight]

theorem moves_eq_nil {work : List Job} {dues : List Due} :
    moves work dues = [] ↔ work = [] ∧ dues = [] := by
  constructor
  · intro h
    obtain ⟨jobs, -⟩ := List.append_eq_nil_iff.1 h
    obtain rfl := heads_eq_nil.1 (List.map_eq_nil_iff.1 jobs)
    exact ⟨rfl, by simpa using h⟩
  · rintro ⟨rfl, rfl⟩
    rfl

/-- The responses to an arrival, made in some order in which each block keeps its own, with the
consequences of departures that are taken among them. -/
inductive Responds : List Job → State → State → Prop
  | done (s : State) : Responds [] s s
  | move {work : List Job} {s t : State} (m : Move) (n : Nat) :
      work ≠ [] → m ∈ moves work s.departureDues →
      Responds (makeMove m work { s with choices := n }).2
        (makeMove m work { s with choices := n }).1 t →
      Responds work s t

theorem responds_respond (n : Nat) {work : List Job} {s : State} (h : moveBound work s ≤ n) :
    Responds work s (respond n work s) := by
  induction n generalizing work s with
  | zero =>
    obtain rfl := jobsWeight_eq_zero.1 (Nat.eq_zero_of_add_eq_zero_right (Nat.le_zero.1 h))
    exact .done s
  | succ n ih =>
    cases work with
    | nil => exact .done s
    | cons j js =>
      simp only [respond]
      split
      · next none =>
        exact absurd (moves_eq_nil.1 (choose_eq_none.1 none)).1 (List.cons_ne_nil j js)
      · next m s' chosen =>
        obtain ⟨hm, k, rfl⟩ := choose_cases chosen
        have lower := moveBound_makeMove_lt (fun _ => holdsFor_of_mem_departureDues) hm k
        exact .move m k (List.cons_ne_nil j js) hm (ih (by omega))

/-- Every response an arrival calls for is made. -/
theorem responds_takeJobs (work : List Job) (s : State) : Responds work s (takeJobs work s) :=
  responds_respond _ le_rfl

theorem drain_dues (dues : State → List Due) (hd : ∀ s, ∀ d ∈ dues s, s.holdsFor d) (n : Nat)
    {work : List Job} {s : State} (h : moveBound work s ≤ n) : dues (drain dues n work s) = [] := by
  induction n generalizing work s with
  | zero =>
    refine List.eq_nil_iff_forall_not_mem.2 fun d mem => ?_
    have := weightOf_runDue_lt (hd s d mem)
    rw [moveBound_eq] at h
    omega
  | succ n ih =>
    simp only [drain]
    split
    · next none => exact (moves_eq_nil.1 (choose_eq_none.1 none)).2
    · next m s' chosen =>
      obtain ⟨hm, k, rfl⟩ := choose_cases chosen
      have lower := moveBound_makeMove_lt (hd s) hm k
      exact ih (by omega)

theorem holdsFor_of_mem_duesPassing {passed : State → Bool} {s : State} {d : Due}
    (h : d ∈ s.duesPassing passed) : s.holdsFor d :=
  holdsFor_of_mem_dues (duesPassing_subset d h)

/-- After what is due has happened, nothing is due but a grant that may be passed. -/
theorem duesPassing_settlePassing (passed : State → Bool) (s : State) :
    (settlePassing passed s).duesPassing passed = [] :=
  drain_dues _ (fun _ _ => holdsFor_of_mem_duesPassing) _ le_rfl

/-- An arrival meets a state in which nothing is due. -/
theorem settled_arrive (s : State) : Settled (arrive s) := by
  obtain ⟨departures, -, stretched, clear, grants⟩ :=
    duesPassing_eq_nil.1 (duesPassing_settlePassing (fun _ => false) (newStep s))
  exact settled_iff.2 ⟨departures, stretched, clear, Bool.eq_false_iff.2 fun h =>
    Bool.noConfusion (grants h)⟩

end Sys2Proof.Machine
end

section
/-! What a step can do, said once: every step is a sequence of named updates of the state, each with
what the part has checked before it, or it is the end of an access. The invariants are then kept by a
step where each update keeps them. -/

namespace Sys2Proof.Machine

/-! ## The updates -/

/-- One update of the state by an arrival, a due event or a command, with what has been checked before
it. -/
inductive Update : State → State → Prop
  /-- the waiting commands and the model's own marks -/
  | marks (s : State) (pending : List Instr) (freed : Option Freeing) (choices : Nat) :
      Update s { s with pending := pending, freed := freed, choices := choices }
  /-- the host cycles stretched and those that have ended -/
  | cycles (s : State) (stretched : List ApertureCycle) (replies : List HostReply) :
      Update s { s with hif := { s.hif with stretched := stretched, replies := replies } }
  /-- Command Status and the bridge configuration -/
  | bridgeRegisters (s : State) (status : CommandStatus) (config : BridgeConfig) :
      Update s { s with bc := { s.bc with status := status, config := config } }
  | stage (t : Target) (f : TargetConfig → TargetConfig) (s : State) : Update s (stage t f s)
  | offer (n : Notice) (s : State) : Update s (offer n s)
  | pop (s : State) : Update s { s with nq := s.nq.pop }
  | select (v : Word) (s : State) : Update s { s with nq := s.nq.writeSelect v }
  | summary (v : Word) (s : State) : Update s { s with nq := s.nq.clearSummary v }
  | comparator (n : ComparatorNo) (v : Word) (s : State) :
      Update s { s with wu := s.wu.set n (comparatorOfWord v) }
  | disarm (s : State) : Update s { s with wu := s.wu.map fun c => { c with armed := false } }
  | flip (t : Target) (s : State) : Update s (flipLevel t s)
  | attention {t : Target} {s : State} :
      (s.admission t).enabled = true → Update s (takeAttention t s)
  | release (t : Target) (s : State) : Update s (releaseAttention t s).1
  | bridge {b : BridgeState} {s : State} :
      s.bc.state ≠ .clearing ∨ b = .clearing → Update s (setBridge b s)
  /-- the next phase of the access in flight -/
  | phase {a b : Access} {s : State} : s.dbe.access = some a → b.request = a.request →
      b.target = a.target →
      ((a.result ≠ none ↔ a.phase = .hold) → (b.result ≠ none ↔ b.phase = .hold)) →
      Update s (setAccess (some b) s)
  | recovery (t : Target) (s : State) :
      Update s { s with dbe := { s.dbe with recovery := s.dbe.recovery.set t none } }
  | turnaround (s : State) : Update s { s with dbe := { s.dbe with turnaround := none } }
  | enable {t : Target} {s : State} : s.admission t = .disabled →
      s.enableFault? s.targets[t].staged = none →
      Update s (s.setTarget t ⟨s.targets[t].staged, s.targets[t].staged, .opened⟩)
  | disable {t : Target} {s : State} : s.busyWith? t = none → Update s (s.setAdmission t .disabled)
  | resumeFailed {t : Target} {s : State} {pn : PN} {offset : Offset} {lanes : Lanes}
      {data : LaneWord} : s.admission t = .halted (.writeTimeout pn offset lanes data) →
      Update s (updateEntry pn (fun e => { e with failed := false }) (s.openTarget t))
  | resume {t : Target} {s : State} {fault : FaultRecord} : s.admission t = .halted fault →
      (∀ pn offset lanes data, fault ≠ .writeTimeout pn offset lanes data) →
      Update s (s.openTarget t)
  | skip {t : Target} {s : State} {pn : PN} {offset : Offset} {lanes : Lanes} {data : LaneWord} :
      s.admission t = .halted (.writeTimeout pn offset lanes data) →
      Update s (leaveQueue [pn] true (s.openTarget t))
  | discard {t : Target} {s : State} : (s.admission t).enabled = true → s.inFlight t = false →
      Update s (leaveQueue (s.wq.pnsOf t) true (s.openTarget t))
  | retire {f : FenceEntry} {s : State} : s.fenceDue? = some f → Update s (retireFence f s).1
  | fence {s : State} (notify : Bool) : s.wq.room = true →
      Update s (arriveRequest (.entry s.wq.nextPn) none
        { s with wq := s.wq.push (.fence ⟨s.wq.nextPn, notify⟩) })
  | merge {w : HeldWrite} {e : WriteEntry} {s : State} : s.mergeEntry? w = some e →
      Update s (updateEntry e.pn (·.merge w) s)
  | enter {w : HeldWrite} {s : State} : s.admission w.target = .opened → s.wq.room = true →
      Update s (enterWrite w s)
  /-- the held write is entered at its re-check -/
  | enterHeld {w : HeldWrite} {s : State} : s.heldWrite? = some w → s.wq.room = true →
      Update s (enterWrite w (endHold s))
  | holdWrite {w : HeldWrite} {s : State} : s.hif.held = none → s.admission w.target = .opened →
      Update s (hold (.write w) s)
  | dropWrite {w : HeldWrite} {s : State} : s.heldWrite? = some w → Update s (endHold s)
  /-- the held write stays held at its re-check -/
  | recheckAnswered (s : State) : Update s { s with hif := { s.hif with recheckDue := false } }
  | holdRead {t : Target} {s : State} (offset : Offset) (lanes : Lanes) : s.hif.held = none →
      s.admission t = .opened → Update s (holdRead t offset lanes s)
  | dropRead {r : HeldRead} {s : State} : s.heldRead? = some r → r.phase = .waiting →
      Update s (dropHeldRead s)
  | endCycle {r : HeldRead} {s : State} : s.heldRead? = some r → r.phase = .issued →
      Update s { setHeldRead { r with cycle := .ended } s with
        hif := { (setHeldRead { r with cycle := .ended } s).hif with holdTimer := none } }
  /-- a slot's indications, its request left as it is -/
  | slotMarks {k : SlotNo} {r : FetchSlot} {s : State} : r.state = s.fs[k].state →
      r.target = s.fs[k].target → Update s (setSlot k r s)
  /-- a slot with no request present, before and after -/
  | slotIdle {k : SlotNo} {r : FetchSlot} {s : State} : s.fs[k].state.holdsRequest = false →
      r.state.holdsRequest = false → Update s (setSlot k r s)
  | fetch {k : SlotNo} {r : FetchSlot} {s : State} : s.fs[k].state = .free → r.state = .waiting →
      s.admission r.target = .opened →
      Update s (arriveRequest (.fetch k) (some r.target) (setSlot k r s))
  | cancel {k : SlotNo} {s : State} : s.fs[k].state = .issued →
      Update s (setSlot k { s.fs[k] with state := .cancelling } s)
  | dropFetch {k : SlotNo} {r : FetchSlot} {s : State} : s.fs[k].state = .waiting →
      r.state.holdsRequest = false → Update s (depart [.fetch k] (setSlot k r s))
  | grant {r : PresentRequest} {s : State} : s.mayGrant = true → s.winner? = some r →
      Update s (grant r s)
  | clear {s : State} : s.clearDue = true → Update s (clearEverything s)
  | reset (levels : BitVec 8) (s : State) : Update s { State.reset with
      pending := s.pending
      au := Vector.ofFn fun t => { high := levels.getLsbD t.val, record := none }
      choices := s.choices }

/-- A sequence of updates. -/
def Updates : State → State → Prop := Relation.ReflTransGen Update

theorem Updates.none (s : State) : Updates s s := Relation.ReflTransGen.refl

theorem Updates.one {s t : State} (h : Update s t) : Updates s t := Relation.ReflTransGen.single h

theorem Updates.tail {s t u : State} (h : Updates s t) (last : Update t u) : Updates s u :=
  Relation.ReflTransGen.tail h last

theorem Updates.trans {s t u : State} (h : Updates s t) (rest : Updates t u) : Updates s u :=
  Relation.ReflTransGen.trans h rest

theorem Updates.offer {s t : State} (h : Updates s t) (n : Notice) :
    Updates s (Machine.offer n t) := h.tail (.offer n t)

theorem Updates.reply {s t : State} (h : Updates s t) (r : HostReply) :
    Updates s (Machine.reply r t) := h.tail (.cycles t t.hif.stretched (t.hif.replies ++ [r]))

theorem Updates.registerReady {s t : State} (h : Updates s t) :
    Updates s (Machine.registerReady t) := h.reply _

theorem Updates.newStep {s t : State} (h : Updates s t) : Updates s (Machine.newStep t) :=
  h.tail (.cycles t t.hif.stretched [])

theorem Updates.markFreed {s t : State} (h : Updates s t) : Updates s (Machine.markFreed t) :=
  h.tail (.marks t t.pending (t.freed.or (some .other)) t.choices)

theorem Updates.settleCommand {s : State} {a : Answer} (h : Updates s a.state) (code : BitVec 8) :
    Updates s (Machine.settleCommand code a) :=
  (h.tail (.bridgeRegisters a.state ⟨code, a.result, a.detail⟩ a.state.bc.config)).reply _

/-! ## The operations are sequences of updates -/

theorem updates_takeCycle (c : ApertureCycle) {s : State}
    (h : s.hif.held = none ∨ s.bc.state = .clearing) : Updates s (takeCycle c s) := by
  obtain ⟨r, e⟩ | ⟨r, n, -, e⟩ | ⟨w, running, opened, e⟩ | ⟨t, offset, lanes, outside, opened, e⟩ :=
    takeCycle_cases c s <;> rw [e]
  · exact (Updates.none s).reply r
  · exact ((Updates.none s).offer n).reply r
  · have held : s.hif.held = none := h.resolve_right (by simp [running])
    obtain ⟨x, merged, e⟩ | ⟨-, room, e⟩ | ⟨-, -, e⟩ := admitWrite_cases w s <;> rw [e]
    · exact (Updates.one (.merge merged)).reply _
    · exact (Updates.one (.enter opened room)).reply _
    · exact .one (.holdWrite held opened)
  · exact .one (.holdRead offset lanes (h.resolve_right outside) opened)

theorem updates_takeStretched {s : State} (h : s.stretchedDue = true) :
    Updates s (takeStretched s) := by
  obtain ⟨waiting, free⟩ := Bool.and_eq_true_iff.1 h
  obtain ⟨c, rest, hs⟩ := List.exists_cons_of_ne_nil (l := s.hif.stretched) (by simpa using waiting)
  rw [takeStretched_cons hs]
  have popped : Updates s { s with
      hif := { s.hif with stretched := rest }
      freed := if s.grantDue then s.freed else none } :=
    (Updates.one (.cycles s rest s.hif.replies)).tail (.marks _ _ _ _)
  refine popped.trans (updates_takeCycle c ?_)
  simp only [Bool.or_eq_true, Option.isNone_iff_eq_none, State.clearDue, Bool.and_eq_true,
    beq_iff_eq] at free
  exact free.imp id And.left

theorem updates_grantChosen (s : State) : Updates s (grantChosen s) := by
  obtain ⟨r, free, winner, e⟩ | ⟨-, e⟩ := grantChosen_cases s <;> rw [e]
  · exact .one (.grant free winner)
  · exact .none s

/-- A response that only offers a notice. -/
def Task.isOffer : Task → Prop
  | .offer _ => True
  | .takeEnd _ | .halt _ _ | .seeHalt _ => False

theorem updates_recheckHeldWrite (s : State) : Updates s (recheckHeldWrite s).1
    ∧ ∀ j ∈ (recheckHeldWrite s).2, j.task.isOffer := by
  cases held : s.heldWrite? with
  | none => simp only [recheckHeldWrite, held]; exact ⟨.none s, by simp⟩
  | some w =>
    have refused : ∀ cause, Updates s (refuseHeldWrite w cause s).1
        ∧ ∀ j ∈ (refuseHeldWrite w cause s).2, j.task.isOffer := fun cause =>
      ⟨(Updates.one (.dropWrite held)).reply _, by simp [refuseHeldWrite, Task.isOffer]⟩
    obtain ⟨-, e⟩ | ⟨-, -, e⟩ | ⟨-, -, room, e⟩ | ⟨-, -, -, e⟩ := recheckHeldWrite_cases held <;>
      rw [e]
    · exact refused _
    · exact refused _
    · exact ⟨(Updates.one (.enterHeld held room)).reply _, by simp⟩
    · exact ⟨.one (.recheckAnswered s), by simp⟩

theorem updates_runDue {d : Due} {s : State} (h : s.holdsFor d) :
    Updates s (runDue d s).1 ∧ ∀ j ∈ (runDue d s).2, j.task.isOffer := by
  cases d with
  | fence =>
    obtain ⟨f, hf⟩ := h
    simp only [runDue, hf]
    exact ⟨.one (.retire hf), by cases hn : f.notify <;> simp [retireFence, hn, Task.isOffer]⟩
  | attention t =>
    refine ⟨.one (.release t s), ?_⟩
    cases hr : s.au[t].record <;> simp only [runDue, releaseAttention, hr] <;> simp [Task.isOffer]
  | recheck => exact updates_recheckHeldWrite s
  | quiesced =>
    have quiescing : s.bc.state = .quiescing := by simpa using (Bool.and_eq_true_iff.1 h).1
    exact ⟨.one (.bridge (.inl (by simp [quiescing]))), by simp [runDue, becomeQuiesced, Task.isOffer]⟩
  | clear => exact ⟨.one (.clear h), by simp [runDue]⟩
  | stretched => exact ⟨updates_takeStretched h, by simp [runDue]⟩
  | grant => exact ⟨updates_grantChosen s, by simp [runDue]⟩

/-- The moves of an arrival, where every response offers a notice, are updates. -/
theorem keptByMoves_updates (s : State) : KeptByMoves (Updates s) Task.isOffer where
  choice t n h := h.tail (.marks t t.pending t.freed n)
  newArrival t h := h.tail (.marks t t.pending none t.choices)
  job task t hj h := by
    cases task with
    | offer n => exact ⟨h.offer n, by simp [runTask]⟩
    | _ => exact hj.elim
  due d t hd h := by
    obtain ⟨updates, offers⟩ := updates_runDue (holdsFor_of_mem_dues hd)
    exact ⟨h.trans updates, offers⟩

theorem updates_arrivePassing (passed : State → Bool) (s : State) :
    Updates s (arrivePassing passed s) :=
  (keptByMoves_updates s).arrivePassing passed (Updates.none s).newStep

theorem updates_arrive (s : State) : Updates s (arrive s) := updates_arrivePassing _ s

theorem updates_takeDue {d : Due} {s : State} (h : s.holdsFor d) : Updates s (takeDue d s) := by
  obtain ⟨updates, offers⟩ := updates_runDue h
  exact (keptByMoves_updates s).takeJobs offers updates

theorem updates_takeOffer {s t : State} (h : Updates s t) (b : Block) (n : Notice) :
    Updates s (takeJobs [⟨b, .offer n⟩] t) :=
  (keptByMoves_updates s).takeJobs (by simp [Task.isOffer]) h

/-! ## The commands are sequences of updates -/

theorem updates_takeCommand {code : BitVec 8} {block : State → Answer} {s t : State}
    (h : Updates s t) (hb : t.bc.state ≠ .clearing → Updates t (block t).state) :
    Updates s (takeCommand code block t) := by
  refine Updates.settleCommand ?_ code
  split
  · exact h
  · next outside => exact h.trans (hb outside)

theorem updates_apertureArrival (c : ApertureCycle) (s : State) :
    Updates s (apertureArrival c s) := by
  unfold apertureArrival
  split
  · exact .one (.cycles s _ s.hif.replies)
  · next free =>
    refine updates_takeCycle c (.inl ?_)
    simp only [Bool.or_eq_true, not_or, State.hifOccupied] at free
    simpa using free.1

theorem updates_enableTarget (t : Target) (s : State) : Updates s (enableTarget t s).state := by
  unfold enableTarget
  split
  · next disabled =>
    dsimp only
    split
    · exact .none s
    · next passed => exact (Updates.one (.enable disabled passed)).markFreed
  · exact .none s

theorem updates_disableTarget (t : Target) (s : State) : Updates s (disableTarget t s).state := by
  unfold disableTarget
  split
  · split
    · exact .none s
    · next idle => exact .one (.disable idle)
  · exact .none s

theorem updates_postFence (notify : Bool) (s : State) : Updates s (postFence notify s).state := by
  unfold postFence
  split
  · next room => exact .one (.fence notify room)
  · exact .none s

theorem updates_resumeTarget (t : Target) (s : State) : Updates s (resumeTarget t s).state := by
  unfold resumeTarget
  split
  · next failed => exact .one (.resumeFailed failed)
  · next other halted => exact .one (.resume halted fun pn offset lanes data => other pn offset lanes data)
  · exact .none s

theorem updates_skipTarget (t : Target) (s : State) : Updates s (skipTarget t s).state := by
  unfold skipTarget
  split
  · next failed => exact .one (.skip failed)
  all_goals exact .none s

theorem updates_discardTarget (t : Target) (s : State) : Updates s (discardTarget t s).state := by
  unfold discardTarget
  split
  · exact .none s
  · next enabled =>
    split
    · exact .none s
    · next idle => exact .one (.discard (by simpa using enabled) (by simpa using idle))

theorem updates_quiesceBridge (s : State) : Updates s (quiesceBridge s).state := by
  unfold quiesceBridge
  split
  · next running =>
    have away : ∀ b, Update s (setBridge b s) := fun b => .bridge (.inl (by simp [running]))
    split
    · exact (Updates.one (away _)).offer _
    · exact .one (away _)
  · exact .none s

theorem updates_openFromQuiesce {s : State} (h : s.bc.state ≠ .clearing) :
    Updates s (openFromQuiesce s).state := by
  unfold openFromQuiesce
  split
  · exact .none s
  · exact .one (.bridge (.inl h))

theorem updates_endIssuedCycle {r : HeldRead} {s : State} (held : s.heldRead? = some r)
    (issued : r.phase = .issued) : Updates s (endIssuedCycle r s) :=
  (Updates.one (.endCycle held issued)).reply _

theorem updates_clearHeldCycle (s : State) : Updates s (clearHeldCycle s) := by
  unfold clearHeldCycle
  split
  · next w held => exact (Updates.one (.dropWrite (w := w) (by simp [State.heldWrite?, held]))).reply _
  · next r held =>
    have held : s.heldRead? = some r := heldRead_eq_some_iff.2 held
    split
    · next waiting => exact (Updates.one (.dropRead held waiting)).reply _
    · next issued _ => exact updates_endIssuedCycle held issued
    · exact .none s
  · exact .none s

theorem updates_clearBridge (s : State) : Updates s (clearBridge s).state :=
  ((updates_clearHeldCycle s).tail (.disarm _)).tail (.bridge (.inr rfl))

/-- A hit of a fetch's decode is an enabled target, with the lanes of the Request. -/
theorem decodeFetch_hit {s : State} {v : Word} {t : Target} {lanes : Lanes}
    (h : s.decodeFetch v = .hit t lanes) : (s.admission t).enabled = true := by
  unfold State.decodeFetch at h
  split at h
  · cases h
  · exact (decodeLanes_hit h).2.1

theorem updates_takeRequest {k : SlotNo} (v : Word) {s : State} (free : s.fs[k].state = .free) :
    Updates s (takeRequest k v s) := by
  have failed : ∀ result t, Updates s (setSlot k (requestedSlot v .failed result t) s) :=
    fun _ _ => .one (.slotIdle (by rw [free]; rfl) rfl)
  have noticed : ∀ {u : State} t cause, Updates s u → Updates s (offerFetchFailed k v t cause u) := by
    intro u t cause h
    unfold offerFetchFailed
    split
    · exact h.offer _
    · exact h
  unfold takeRequest
  split
  · exact failed _ _
  · split
    · exact noticed _ _ (failed _ _)
    · next t lanes hit =>
      split
      · exact noticed _ _ (failed _ _)
      · next notHalted =>
        have opened : s.admission t = .opened :=
          opened_of_enabled (decodeFetch_hit hit) (by simpa using notHalted)
        exact .one (.fetch (r := requestedSlot v .waiting .none t) free rfl opened)

theorem updates_releaseSlot (k : SlotNo) (s : State) : Updates s (releaseSlot k s) := by
  unfold releaseSlot
  split
  · exact .none s
  · exact .none s
  · next waiting => exact .one (.dropFetch waiting rfl)
  · next issued => exact .one (.cancel issued)
  · next done => exact .one (.slotIdle (by rw [done]; rfl) rfl)
  · next failed => exact .one (.slotIdle (by rw [failed]; rfl) rfl)

/-! ## Every step -/

theorem execAccessEnd_cases {s t : State} (h : execAccessEnd s = .next t) :
    Updates s t ∨ ∃ u a, Updates s u ∧ u.dbe.access = some a ∧ a.phase = .hold
      ∧ t = endAccess a u := by
  have arrived := updates_arrive s
  obtain rfl := Host.Outcome.next.inj h
  cases access : (arrive s).dbe.access with
  | none => exact .inl arrived
  | some a =>
    by_cases held : a.phase = .hold
    · exact .inr ⟨arrive s, a, arrived, access, held, by simp only [if_pos held]⟩
    · exact .inl (by simpa only [if_neg held] using arrived)

/-- A command is a sequence of updates, or the end of the access in flight. -/
theorem exec_cases {i : Instr} {s t : State} (h : exec i s = .next t) :
    Updates s t ∨ ∃ u a, Updates s u ∧ u.dbe.access = some a ∧ a.phase = .hold
      ∧ t = endAccess a u := by
  have arrived := updates_arrive s
  have met := fun passed => updates_arrivePassing passed s
  have stepped := (Updates.none s).newStep
  by_cases last : i = .accessEnd
  · subst last
    exact execAccessEnd_cases h
  · left
    cases i <;> obtain rfl := Host.Outcome.next.inj h
    case apertureWrite | apertureRead => exact (met _).trans (updates_apertureArrival _ _)
    case heldWriteRecheck | quiesced | attentionRecordReleased =>
      split
      · next due => exact stepped.trans (updates_takeDue due)
      · exact stepped
    case fenceRetired =>
      split
      · next due => exact stepped.trans (updates_takeDue (Option.isSome_iff_exists.1 due))
      · exact stepped
    case clearTakesEffect =>
      split
      · next due => exact stepped.tail (.clear due)
      · exact stepped
    case stretchedCycleTaken =>
      have prompt := (keptByMoves_updates s).settlePrompt stepped
      split
      · next due => exact prompt.trans (updates_takeStretched due)
      · exact prompt
    case issueGrant =>
      exact ((keptByMoves_updates s).settleDepartures stepped).trans (updates_grantChosen _)
    case heldWriteHoldExpired =>
      split
      · next held _ => exact ((arrived.tail (.dropWrite held)).reply _).offer _
      · exact arrived
    case holdExpiryWaiting =>
      split
      · next held _ =>
        split
        · next waiting =>
          exact updates_takeOffer (((met _).tail (.dropRead held waiting)).reply _) _ _
        · exact met _
      · exact met _
    case holdExpiryIssued =>
      split
      · next held _ =>
        split
        · next issued => exact arrived.trans (updates_endIssuedCycle held issued.1)
        · exact arrived
      · exact arrived
    case registerWindowBusError | registerWrite => exact arrived.reply _
    case window | timing => exact (arrived.tail (.stage _ _ _)).registerReady
    case watchComparator => exact (arrived.tail (.comparator _ _ _)).registerReady
    case noticeSelect => exact (arrived.tail (.select _ _)).registerReady
    case eventSummary => exact (arrived.tail (.summary _ _)).registerReady
    case noticePop => exact (arrived.tail (.pop _)).registerReady
    case bridgeConfiguration =>
      exact (arrived.tail (.bridgeRegisters _ (arrive s).bc.status _)).registerReady
    case request =>
      refine Updates.registerReady ?_
      split
      · next free => exact arrived.trans (updates_takeRequest _ free)
      · exact arrived.tail (.slotMarks rfl rfl)
    case release => exact ((met _).trans (updates_releaseSlot _ _)).registerReady
    case enable => exact updates_takeCommand arrived fun _ => updates_enableTarget _ _
    case disable => exact updates_takeCommand arrived fun _ => updates_disableTarget _ _
    case fence => exact updates_takeCommand arrived fun _ => updates_postFence _ _
    case resume => exact updates_takeCommand arrived fun _ => updates_resumeTarget _ _
    case skip => exact updates_takeCommand arrived fun _ => updates_skipTarget _ _
    case discard => exact updates_takeCommand (met _) fun _ => updates_discardTarget _ _
    case quiesce => exact updates_takeCommand arrived fun _ => updates_quiesceBridge _
    case openBridge => exact updates_takeCommand arrived updates_openFromQuiesce
    case clear => exact updates_takeCommand (met _) fun _ => updates_clearBridge _
    case unknownCommand => exact updates_takeCommand arrived fun _ => .none _
    case setupComplete =>
      split
      · next access =>
        split
        · next setup => exact arrived.tail (.phase access rfl rfl (by simp [setup]))
        · exact arrived
      · exact arrived
    case strobeTimeReached | readySampledHigh | accessTimeout =>
      split
      · next access =>
        split
        · exact arrived.tail (.phase access rfl rfl fun _ => by simp [strobeDone])
        · exact arrived
      · exact arrived
    case accessEnd => exact absurd rfl last
    case recoveryTimerExpires => exact (arrived.tail (.recovery _ _)).markFreed
    case turnaroundTimerExpires => exact (arrived.tail (.turnaround _)).markFreed
    case attentionEvent =>
      split
      · next event =>
        have enabled := (Bool.and_eq_true_iff.1 event).1
        exact (arrived.tail (.flip _ _)).tail (.attention enabled)
      · exact arrived
    case attentionInputEdge =>
      split
      · exact arrived
      · exact arrived.tail (.flip _ _)
    case powerOnReset => exact .one (.reset _ s)

/-- A step is a sequence of updates, or the end of the access in flight. -/
theorem step_cases {s t : State} (h : step s = .next t) :
    Updates s t ∨ ∃ u a, Updates s u ∧ u.dbe.access = some a ∧ a.phase = .hold
      ∧ t = endAccess a u := by
  unfold step at h
  split at h
  · obtain rfl := Host.Outcome.next.inj h
    exact .inl (.none s)
  · next c rest _ =>
    have taken : Updates s { s with pending := rest } := .one (.marks s rest s.freed s.choices)
    obtain updates | ⟨u, a, updates, access⟩ := exec_cases h
    · exact .inl (taken.trans updates)
    · exact .inr ⟨u, a, taken.trans updates, access⟩

end Sys2Proof.Machine
end

section
/-! What the end of an access can do, said once, and the induction over steps: an invariant that every
update and every effect of an access's end keeps is kept by every step. -/

namespace Sys2Proof.Machine

/-! ## The effects of an access's end -/

/-- One effect of the end of an access, beside the updates, with what has been checked before it. -/
inductive EndEffect : State → State → Prop
  | free (a : Access) (s : State) : EndEffect s (freeBus a s)
  | count (a : Access) (s : State) : EndEffect s (countWatches a s)
  | changeEntry {pn : PN} {f : WriteEntry → WriteEntry} (s : State) : (∀ e, (f e).pn = e.pn) →
      (∀ e, (f e).target = e.target) → EndEffect s (updateEntry pn f s)
  | leave (pn : PN) (s : State) : EndEffect s (leaveQueue [pn] false s)
  | dropRead {r : HeldRead} {s : State} : s.heldRead? = some r → EndEffect s (dropHeldRead s)
  | readWaits {r : HeldRead} (a : Access) {s : State} : s.heldRead? = some r → r.cycle = .opened →
      EndEffect s (setHeldRead (r.lowTaken a) s)
  | fetchWaits {k : SlotNo} (a : Access) {s : State} : s.fs[k].state = .issued →
      EndEffect s (setSlot k (s.fs[k].lowTaken a) s)
  | fetchEnds {k : SlotNo} {r : FetchSlot} {s : State} : s.fs[k].state.holdsRequest = true →
      r.state.holdsRequest = false → EndEffect s (depart [.fetch k] (setSlot k r s))
  | halt {t : Target} (fault : FaultRecord) {s : State} : s.dbe.access = none →
      s.admission t = .opened → EndEffect s (s.setAdmission t (.halted fault))

/-- An update or an effect of an access's end. -/
inductive Effect (s t : State) : Prop
  | update : Update s t → Effect s t
  | atEnd : EndEffect s t → Effect s t

/-- A sequence of updates and effects of an access's end. -/
def Effects : State → State → Prop := Relation.ReflTransGen Effect

theorem Effects.none (s : State) : Effects s s := Relation.ReflTransGen.refl

theorem Effects.one {s t : State} (h : EndEffect s t) : Effects s t :=
  Relation.ReflTransGen.single (.atEnd h)

theorem Effects.tail {s t u : State} (h : Effects s t) (last : EndEffect t u) : Effects s u :=
  Relation.ReflTransGen.tail h (.atEnd last)

theorem Effects.trans {s t u : State} (h : Effects s t) (rest : Effects t u) : Effects s u :=
  Relation.ReflTransGen.trans h rest

theorem Updates.effects {s t : State} (h : Updates s t) : Effects s t :=
  Relation.ReflTransGen.mono (fun _ _ => Effect.update) s t h

theorem Effects.update {s t u : State} (h : Effects s t) (last : Update t u) : Effects s u :=
  h.trans (Updates.one last).effects

theorem Effects.reply {s t : State} (h : Effects s t) (r : HostReply) :
    Effects s (Machine.reply r t) := h.trans ((Updates.none t).reply r).effects

/-! ## The responses are sequences of effects -/

theorem effects_wqTakesEnd (a : Access) (pn : PN) (s : State) :
    Effects s (wqTakesEnd a pn s).1 := by
  obtain ⟨-, h⟩ | ⟨e, -, ⟨-, -, h⟩ | ⟨-, -, h⟩ | ⟨-, h⟩⟩ := wqTakesEnd_cases a pn s <;> rw [h]
  · exact .none s
  · exact .one (.changeEntry s (fun _ => rfl) fun _ => rfl)
  · exact .one (.leave pn s)
  · exact .one (.changeEntry s (fun _ => rfl) fun _ => rfl)

theorem effects_haltHeldRead {r q : HeldRead} {s : State} (held : s.heldRead? = some q) :
    Effects s (haltHeldRead r s).1 := (Effects.one (.dropRead held)).reply _

theorem effects_hifTakesEnd (a : Access) (s : State) : Effects s (hifTakesEnd a s).1 := by
  obtain ⟨-, h⟩ | ⟨r, held, ⟨-, h⟩ | ⟨-, h⟩ | ⟨opened, -, h⟩ | ⟨_, h⟩ | ⟨_, h⟩⟩ :=
    hifTakesEnd_cases a s <;> rw [h]
  · exact .none s
  · have dropped : Effects s (dropHeldRead s) := .one (.dropRead held)
    simp only [timeOutHeldRead]
    split
    · exact dropped.reply _
    · exact dropped
  · exact effects_haltHeldRead held
  · exact .one (.readWaits a held opened)
  · exact (Effects.one (.dropRead held)).reply _
  · exact .one (.dropRead held)

theorem effects_fsTakesEnd (a : Access) (k : SlotNo) (s : State) :
    Effects s (fsTakesEnd a k s).1 := by
  obtain ⟨-, h⟩ | ⟨issued, h⟩ | ⟨r, work, present, idle, -, h⟩ := fsTakesEnd_cases a k s <;> rw [h]
  · exact .none s
  · exact .one (.fetchWaits a issued)
  · exact .one (.fetchEnds (by rcases present with e | e <;> rw [e] <;> rfl) idle)

theorem effects_takeEnd (a : Access) (s : State) : Effects s (takeEnd a s).1 := by
  unfold takeEnd
  split
  · exact effects_wqTakesEnd a _ s
  · exact effects_hifTakesEnd a s
  · exact effects_fsTakesEnd a _ s

theorem effects_seeHalt (t : Target) (s : State) : Effects s (seeHalt t s).1 := by
  obtain ⟨w, held, -, h⟩ | ⟨r, held, -, -, h⟩ | h := seeHalt_cases t s <;> rw [h]
  · exact ((Updates.one (.dropWrite held)).reply _).effects
  · exact effects_haltHeldRead held
  · exact .none s

theorem effects_runTask (task : Task) {s : State} (bus : s.dbe.access = none) :
    Effects s (runTask task s).1 := by
  cases task with
  | takeEnd a => exact effects_takeEnd a s
  | halt t fault =>
    obtain ⟨opened, h⟩ | ⟨-, h⟩ := takeHalt_cases t fault s <;> simp only [runTask, h]
    · exact .one (.halt fault bus opened)
    · exact .none s
  | seeHalt t => exact effects_seeHalt t s
  | offer n => exact ((Updates.none s).offer n).effects

/-! ## No response touches the device bus -/

theorem runTask_dbe (task : Task) (s : State) : (runTask task s).1.dbe = s.dbe := by
  cases task with
  | takeEnd a =>
    simp only [runTask, takeEnd]
    split
    · next pn _ =>
      obtain ⟨-, h⟩ | ⟨e, -, ⟨-, -, h⟩ | ⟨-, -, h⟩ | ⟨-, h⟩⟩ := wqTakesEnd_cases a pn s <;> simp [h]
    · obtain ⟨-, h⟩ | ⟨r, -, ⟨-, h⟩ | ⟨-, h⟩ | ⟨-, -, h⟩ | ⟨_, h⟩ | ⟨_, h⟩⟩ :=
        hifTakesEnd_cases a s <;> simp [h, timeOutHeldRead, haltHeldRead, apply_ite State.dbe]
    · next k _ =>
      obtain ⟨-, h⟩ | ⟨-, h⟩ | ⟨r, work, -, -, -, h⟩ := fsTakesEnd_cases a k s <;> simp [h]
  | halt t fault => obtain ⟨-, h⟩ | ⟨-, h⟩ := takeHalt_cases t fault s <;> simp [runTask, h]
  | seeHalt t =>
    obtain ⟨w, -, -, h⟩ | ⟨r, -, -, -, h⟩ | h := seeHalt_cases t s <;>
      simp [runTask, h, haltHeldRead]
  | offer n => rfl

theorem runDue_dbe {d : Due} {s : State} (h : d ∈ s.departureDues) : (runDue d s).1.dbe = s.dbe := by
  rcases mem_departureDues.1 h with ⟨rfl, -⟩ | ⟨t, rfl, -⟩ | ⟨rfl, due⟩ | ⟨rfl, -⟩
  · cases hf : s.fenceDue? <;> simp [runDue, hf, retireFence]
  · cases hr : s.au[t].record <;> simp only [runDue, releaseAttention, hr]
  · obtain ⟨-, w, held⟩ := recheckIsDue_iff.1 due
    obtain ⟨-, e⟩ | ⟨-, -, e⟩ | ⟨-, -, -, e⟩ | ⟨-, -, -, e⟩ := recheckHeldWrite_cases held <;>
      simp [runDue, e, refuseHeldWrite, enterWrite]
  · rfl

/-- The responses to an arrival with the bus free, and the departures among them, are effects. -/
theorem Responds.effects {work : List Job} {s t : State} (h : Responds work s t)
    (bus : s.dbe.access = none) : Effects s t ∧ t.dbe = s.dbe := by
  induction h with
  | done s => exact ⟨.none s, rfl⟩
  | @move work s t m n _ hm _ ih =>
    have chosen : Effects s { s with choices := n } :=
      (Updates.one (.marks s s.pending s.freed n)).effects
    simp only [moves, List.mem_append, List.mem_map, List.mem_filter] at hm
    obtain ⟨⟨j, rest⟩, -, rfl⟩ | ⟨d, ⟨mem, -⟩, rfl⟩ := hm
    · have same := runTask_dbe j.task { s with choices := n }
      obtain ⟨rest, dbe⟩ := ih ((congrArg DeviceBus.access same).trans bus)
      exact ⟨(chosen.trans (effects_runTask j.task bus)).trans rest, dbe.trans same⟩
    · have same := runDue_dbe (s := { s with choices := n }) mem
      have due := (updates_runDue (s := { s with choices := n })
        (holdsFor_of_mem_departureDues mem)).1
      obtain ⟨rest, dbe⟩ := ih ((congrArg DeviceBus.access same).trans bus)
      exact ⟨(chosen.trans due.effects).trans rest, dbe.trans same⟩

theorem effects_endAccess (a : Access) (s : State) : Effects s (endAccess a s) := by
  have freed : Effects s (freeBus a s) := .one (.free a s)
  unfold endAccess
  split
  · exact freed
  · have idle : (countWatches a (freeBus a s)).dbe.access = none := by
      unfold countWatches
      split <;> rfl
    exact (freed.tail (.count a _)).trans ((responds_takeJobs _ _).effects idle).1

/-- An invariant kept by every update and every effect of an access's end is kept by every step. -/
theorem step_keeps {P : State → Prop} (update : ∀ s t, Update s t → P s → P t)
    (atEnd : ∀ s t, EndEffect s t → P s → P t) {s t : State} (h : step s = .next t) (hp : P s) :
    P t := by
  have kept : ∀ {u v}, Effects u v → P u → P v := by
    intro u v effects hu
    induction effects with
    | refl => exact hu
    | tail _ last ih =>
      cases last with
      | update last => exact update _ _ last ih
      | atEnd last => exact atEnd _ _ last ih
  obtain updates | ⟨u, a, updates, -, -, rfl⟩ := step_cases h
  · exact kept updates.effects hp
  · exact kept (updates.effects.trans (effects_endAccess a u)) hp

end Sys2Proof.Machine
end

section
/-! The Notice Queue: its form is kept by every operation on it, and so by every step (R134, R137). -/

namespace Sys2Proof.Machine

/-! ## What a grant leaves unchanged -/

/-- A grant changes the request's owner, the device bus and the mark of the arrival. -/
theorem grant_frame (r : PresentRequest) (s : State) :
    ∃ wq hif fs dbe freed,
      grant r s = { s with wq := wq, hif := hif, fs := fs, dbe := dbe, freed := freed } := by
  obtain ⟨wq, hif, fs, issued⟩ := markIssued_frame r.id s
  unfold grant
  split
  · exact ⟨wq, hif, fs, _, none, by rw [issued]⟩
  · exact ⟨_, _, _, _, _, rfl⟩

/-! ## The operations of the queue -/

/-- What an update can do to the Notice Queue. -/
inductive QueueOp (q : NoticeQueue) : NoticeQueue → Prop
  | keep : QueueOp q q
  | offer (n : Notice) : QueueOp q (q.offer n)
  | pop : QueueOp q q.pop
  | select (v : Word) : QueueOp q (q.writeSelect v)
  | summary (v : Word) : QueueOp q (q.clearSummary v)
  | clear : QueueOp q q.cleared
  | reset : QueueOp q State.reset.nq

theorem takeAttention_cases (t : Target) (s : State) :
    takeAttention t s = offer (.attention t 1 false) s
      ∨ (∃ r, s.au[t].record = some r ∧ takeAttention t s
          = setRecord t { r with count := if r.count = 15 then 15 else r.count + 1 } s)
      ∨ (s.au[t].record = none ∧ takeAttention t s
          = setRecord t { count := 1, writesDropped := false, waitSet := s.wq.pnsOf t } s) := by
  unfold takeAttention
  cases (s.live t).attentionOrdering with
  | false => exact .inl rfl
  | true =>
    cases h : s.au[t].record with
    | some r => exact .inr (.inl ⟨r, rfl, rfl⟩)
    | none =>
      cases he : (s.wq.pnsOf t).isEmpty with
      | true => exact .inl (by simp)
      | false => exact .inr (.inr ⟨rfl, by simp⟩)

theorem releaseAttention_frame (t : Target) (s : State) :
    ∃ au, (releaseAttention t s).1 = { s with au := au } := by
  unfold releaseAttention
  split <;> exact ⟨_, rfl⟩

theorem Update.queueOp {s t : State} (h : Update s t) : QueueOp s.nq t.nq := by
  cases h
  case offer n => exact .offer n
  case pop => exact .pop
  case select v => exact .select v
  case summary v => exact .summary v
  case clear => exact .clear
  case reset => exact .reset
  case attention x _ =>
    obtain e | ⟨r, -, e⟩ | ⟨-, e⟩ := takeAttention_cases x s <;> rw [e]
    · exact .offer _
    · exact .keep
    · exact .keep
  case release x =>
    obtain ⟨au, e⟩ := releaseAttention_frame x s
    rw [e]
    exact .keep
  case grant r _ _ =>
    obtain ⟨_, _, _, _, _, e⟩ := grant_frame r s
    rw [e]
    exact .keep
  all_goals exact .keep

theorem EndEffect.nq_eq {s t : State} (h : EndEffect s t) : t.nq = s.nq := by
  cases h
  case count a => unfold countWatches; split <;> rfl
  all_goals rfl

/-! ## Sequence numbers and the Overflow record -/

/-- An Overflow record is the youngest. -/
theorem getLast_of_overflow {next : BitVec 8} {rs : List NoticeRecord} (wf : recordsWf next rs)
    {r : NoticeRecord} {count : BitVec 8} (mem : r ∈ rs) (overflow : r.body = .overflow count) :
    rs.getLast? = some r := by
  induction rs with
  | nil => cases mem
  | cons x rest ih =>
    obtain ⟨-, youngest, restWf⟩ := wf
    obtain rfl | mem := List.mem_cons.1 mem
    · obtain ⟨rfl, -⟩ := youngest count overflow
      rfl
    · rw [List.getLast?_cons, ih restWf mem]
      rfl

/-- A record entered behind records none of which is an Overflow record. -/
theorem recordsWf_enter {next : BitVec 8} {rs : List NoticeRecord} {body : RecordBody}
    (wf : recordsWf next rs) (plain : ∀ r ∈ rs, ∀ count, r.body ≠ .overflow count)
    (counts : ∀ count, body = .overflow count → count ≠ 0) :
    recordsWf (next + 1) (rs ++ [⟨next, body⟩]) := by
  induction rs with
  | nil =>
    refine ⟨?_, fun count e => ⟨rfl, counts count e⟩, trivial⟩
    simp
  | cons r rest ih =>
    obtain ⟨sequence, -, restWf⟩ := wf
    refine ⟨?_, fun count e => absurd e (plain r List.mem_cons_self count),
      ih restWf fun x hx => plain x (List.mem_cons_of_mem r hx)⟩
    rw [sequence]
    simp only [List.append_eq, List.length_append, List.length_singleton, BitVec.ofNat_add]
    have one : 1#8 = 1 := rfl
    rw [one]
    ring

/-- The count of the Overflow record changes. -/
theorem recordsWf_recount {next sequence count count' : BitVec 8} {older : List NoticeRecord}
    (wf : recordsWf next (older ++ [⟨sequence, .overflow count⟩])) (nonzero : count' ≠ 0) :
    recordsWf next (older ++ [⟨sequence, .overflow count'⟩]) := by
  induction older with
  | nil =>
    obtain ⟨hs, -, -⟩ := wf
    refine ⟨hs, fun c e => ⟨rfl, ?_⟩, trivial⟩
    cases e
    exact nonzero
  | cons r rest ih =>
    obtain ⟨hs, youngest, restWf⟩ := wf
    refine ⟨by simpa using hs, fun c e => ?_, ih restWf⟩
    simpa using (youngest c e).1

theorem countUp_ne_zero {count : BitVec 8} : NoticeQueue.countUp count ≠ 0 := by
  unfold NoticeQueue.countUp
  split
  · decide
  · next h =>
    intro e
    exact h (by bv_omega)

/-- The queue is overflowed exactly where its youngest record is an Overflow record. -/
theorem overflowCount_eq_some {q : NoticeQueue} {count : BitVec 8} :
    q.overflowCount? = some count ↔
      ∃ older sequence, q.records = older ++ [⟨sequence, .overflow count⟩] := by
  unfold NoticeQueue.overflowCount?
  constructor
  · intro h
    split at h
    · next sequence c last =>
      cases h
      exact ⟨q.records.dropLast, sequence, (List.dropLast_append_getLast? _ last).symm⟩
    · cases h
  · rintro ⟨older, sequence, e⟩
    simp [e]

/-! ## The form of the queue -/

/-- Bits that name a kind may be set in a summary. -/
theorem summary_oneBit {w : Word} (h : w &&& ~~~summaryMask = 0) {k : Nat} (low : 1 ≤ k)
    (high : k ≤ 12) : (w ||| oneBit k) &&& ~~~summaryMask = 0 := by
  have bit : oneBit k &&& ~~~summaryMask = 0 := by interval_cases k <;> decide
  rw [BitVec.and_or_distrib_right, h, bit]
  rfl

theorem noticeQueueWf_indicate {q : NoticeQueue} (h : NoticeQueueWf q) {k : Nat} (low : 1 ≤ k)
    (high : k ≤ 12) : NoticeQueueWf (q.indicate k) := by
  obtain ⟨records, length, select, summary⟩ := h
  exact ⟨records, length, select, summary_oneBit summary low high⟩

theorem code_bounds (n : Notice) : 1 ≤ n.code ∧ n.code ≤ 11 := by
  cases n <;> simp [Notice.code]

theorem noticeQueueWf_enter {q : NoticeQueue} (h : NoticeQueueWf q) {body : RecordBody}
    (plain : q.overflowCount? = none) (counts : ∀ count, body = .overflow count → count ≠ 0)
    (room : q.records.length < 15 ∨ ∃ count, body = .overflow count) :
    NoticeQueueWf (q.enter body) := by
  obtain ⟨records, length, select, summary⟩ := h
  have noOverflow : ∀ r ∈ q.records, ∀ count, r.body ≠ .overflow count := by
    intro r hr count e
    have := getLast_of_overflow records hr e
    rw [NoticeQueue.overflowCount?, this] at plain
    cases r
    cases e
    cases plain
  refine ⟨recordsWf_enter records noOverflow counts, ?_, select, summary⟩
  simp only [plain, Option.isSome_none, Bool.false_eq_true, if_false] at length
  simp only [NoticeQueue.enter, List.length_append, List.length_singleton]
  obtain room | ⟨count, rfl⟩ := room
  · have least : ∀ b : Bool, 15 ≤ if b = true then 16 else 15 := by decide
    exact le_trans room (least _)
  · simp [NoticeQueue.overflowCount?]
    omega

theorem noticeQueueWf_queueUp {q : NoticeQueue} (h : NoticeQueueWf q) (n : Notice) :
    NoticeQueueWf (q.queueUp n) := by
  unfold NoticeQueue.queueUp
  cases overflow : q.overflowCount? with
  | some count =>
    obtain ⟨older, sequence, e⟩ := overflowCount_eq_some.1 overflow
    obtain ⟨records, length, select, summary⟩ := h
    simp only [Option.isSome_some, if_true]
    have counted : q.countLost
        = { q with records := older ++ [⟨sequence, .overflow (NoticeQueue.countUp count)⟩] } := by
      simp [NoticeQueue.countLost, e]
    rw [counted]
    refine ⟨recordsWf_recount (e ▸ records) countUp_ne_zero, ?_, select, summary⟩
    simpa [NoticeQueue.overflowCount?, e] using length
  | none =>
    simp only [Option.isSome_none, Bool.false_eq_true, if_false]
    split
    · next room => exact noticeQueueWf_enter h overflow nofun (.inl room)
    · refine noticeQueueWf_indicate (noticeQueueWf_enter h overflow ?_ (.inr ⟨1, rfl⟩)) (by decide)
        (by decide)
      rintro _ ⟨⟩
      decide

theorem noticeQueueWf_offer {q : NoticeQueue} (h : NoticeQueueWf q) (n : Notice) :
    NoticeQueueWf (q.offer n) := by
  obtain ⟨low, high⟩ := code_bounds n
  have indicated := noticeQueueWf_indicate h low (by omega)
  simp only [NoticeQueue.offer]
  split
  · exact indicated
  · exact noticeQueueWf_queueUp indicated n

theorem noticeQueueWf_pop {q : NoticeQueue} (h : NoticeQueueWf q) : NoticeQueueWf q.pop := by
  obtain ⟨records, length, select, summary⟩ := h
  cases e : q.records with
  | nil =>
    have same : q.pop = q := by rw [NoticeQueue.pop, e, List.tail_nil, ← e]
    rw [same]
    exact ⟨records, length, select, summary⟩
  | cons r rest =>
    obtain ⟨-, -, restWf⟩ : recordsWf q.sequence (r :: rest) := e ▸ records
    have popped : q.pop.records = rest := by rw [NoticeQueue.pop, e, List.tail_cons]
    refine ⟨popped ▸ restWf, ?_, select, summary⟩
    simp only [NoticeQueue.overflowCount?, NoticeQueue.pop, e, List.tail_cons, List.length_cons]
      at length ⊢
    cases rest with
    | nil => simp
    | cons x rest => rw [List.getLast?_cons_cons] at length; omega

/-- Every operation keeps the queue's form. -/
theorem QueueOp.keeps {q q' : NoticeQueue} (op : QueueOp q q') (h : NoticeQueueWf q) :
    NoticeQueueWf q' := by
  cases op with
  | keep => exact h
  | offer n => exact noticeQueueWf_offer h n
  | pop => exact noticeQueueWf_pop h
  | select v =>
    obtain ⟨records, length, -, summary⟩ := h
    exact ⟨records, length, by rw [NoticeQueue.writeSelect, BitVec.and_assoc]; simp, summary⟩
  | summary v =>
    obtain ⟨records, length, select, summary⟩ := h
    refine ⟨records, length, select, ?_⟩
    rw [NoticeQueue.clearSummary, BitVec.and_assoc, BitVec.and_comm (~~~v), ← BitVec.and_assoc,
      summary]
    exact BitVec.zero_and
  | clear =>
    obtain ⟨-, -, select, -⟩ := h
    exact ⟨trivial, Nat.zero_le _, select, by simp [NoticeQueue.cleared]⟩
  | reset => exact ⟨trivial, Nat.zero_le _, by decide, by decide⟩

/-- Settles O55: what a step does to the Notice Queue is a sequence of its operations. -/
theorem stepKeepsNoticeQueueWf : Obligations.StepKeepsNoticeQueueWf := by
  unfold Obligations.StepKeepsNoticeQueueWf
  exact fun s t wf h => step_keeps (P := fun s => NoticeQueueWf s.nq) (fun _ _ u => u.queueOp.keeps)
    (fun _ _ e => e.nq_eq ▸ id) h wf

end Sys2Proof.Machine
end

section
/-! The write queue: its form is kept by every operation on it, and so by every step (R19, R20). -/

namespace Sys2Proof.Machine

/-! ## The grant, by the owner of the request -/

/-- The write entry of a request that is granted (R52). -/
def issuedEntry (e : WriteEntry) : WriteEntry := { e with progress := .issued, begun := true }

/-- The request granted becomes Issued at its owner, and an access of it begins (R52, R60). -/
theorem grant_cases {s : State} {r : PresentRequest} (h : s.eligible r = true) :
    ∃ t a u, r.target = some t ∧ a.request = r.id ∧ a.target = t ∧ a.result = none
      ∧ a.phase ≠ .hold
      ∧ grant r s = { u with freed := none, dbe := { s.dbe with access := some a } }
      ∧ ((∃ pn e, r.id = .entry pn ∧ s.wq.find pn = some e ∧ u = updateEntry pn issuedEntry s)
        ∨ (∃ q, r.id = .heldRead ∧ s.heldRead? = some q ∧ q.phase = .waiting
          ∧ u = setHeldRead { q with phase := .issued } s)
        ∨ ∃ k, r.id = .fetch k ∧ s.fs[k].state = .waiting
          ∧ u = setSlot k { s.fs[k] with state := .issued } s) := by
  obtain ⟨t, offset, lanes, low, data, target, -, granted⟩ := grant_of_eligible h
  obtain ⟨-, -, ready⟩ := eligible_iff.1 h
  refine ⟨t, accessFor r.id t (s.live t) offset lanes low data, markIssued r.id s, target, rfl, rfl,
    rfl, ?_, granted, ?_⟩
  · simp only [accessFor]
    split <;> simp
  · obtain ⟨pn, e, id, found, -⟩ | ⟨q, id, held, waiting⟩ | ⟨k, id, waiting⟩ := ready_iff.1 ready
    · exact .inl ⟨pn, e, id, found, by rw [id]; rfl⟩
    · exact .inr (.inl ⟨q, id, held, waiting, by rw [id]; simp only [markIssued, held]⟩)
    · exact .inr (.inr ⟨k, id, waiting, by rw [id]; rfl⟩)

/-! ## The operations of the queue -/

/-- What a step can do to the write queue. -/
inductive EntriesOp (q : WriteQueue) : WriteQueue → Prop
  | keep : EntriesOp q q
  | change (pn : PN) {f : WriteEntry → WriteEntry} : (∀ e, (f e).pn = e.pn) →
      EntriesOp q (q.update pn f)
  | push {e : QueueEntry} : q.room = true → e.pn = q.nextPn → EntriesOp q (q.push e)
  | remove (pns : List PN) : EntriesOp q (q.remove pns)
  | retire (pn : PN) : EntriesOp q ({ q with lastFenceRetired := pn }.remove [pn])
  | empty : EntriesOp q { q with entries := [] }
  | reset : EntriesOp q State.reset.wq

theorem Update.entriesOp {s t : State} (h : Update s t) : EntriesOp s.wq t.wq := by
  cases h
  case resumeFailed => exact .change _ fun _ => rfl
  case skip => exact .remove _
  case discard => exact .remove _
  case retire => exact .retire _
  case fence room => exact .push room rfl
  case merge => exact .change _ fun _ => rfl
  case enter room => exact .push room rfl
  case enterHeld room => exact .push room rfl
  case clear => exact .empty
  case reset => exact .reset
  case attention x _ =>
    obtain e | ⟨r, -, e⟩ | ⟨-, e⟩ := takeAttention_cases x s <;> rw [e] <;> exact .keep
  case release x =>
    obtain ⟨au, e⟩ := releaseAttention_frame x s
    rw [e]
    exact .keep
  case grant r _ winner =>
    obtain ⟨_, _, _, -, -, -, -, -, e, ⟨pn, _, -, -, rfl⟩ | ⟨_, -, -, -, rfl⟩ | ⟨_, -, -, rfl⟩⟩ :=
      grant_cases (winner_mem winner).2 <;> rw [e]
    · exact .change pn fun _ => rfl
    · exact .keep
    · exact .keep
  all_goals exact .keep

theorem EndEffect.entriesOp {s t : State} (h : EndEffect s t) : EntriesOp s.wq t.wq := by
  cases h
  case count a => unfold countWatches; split <;> exact .keep
  case changeEntry same _ => exact .change _ same
  case leave pn => exact .remove _
  all_goals exact .keep

/-! ## The form of the queue -/

theorem writeQueueWf_push {q : WriteQueue} {e : QueueEntry} (h : WriteQueueWf q)
    (room : q.room = true) (pn : e.pn = q.nextPn) : WriteQueueWf (q.push e) := by
  obtain ⟨-, distinct, nonzero, next⟩ := h
  obtain ⟨places, free⟩ := room_iff.1 room
  refine ⟨by simpa [WriteQueue.push] using places, ?_, ?_, pnAfter_ne_zero _⟩
  · rw [WriteQueue.push, List.map_append, List.map_singleton, List.nodup_append]
    refine ⟨distinct, List.nodup_singleton _, fun x hx y hy => ?_⟩
    obtain ⟨z, hz, rfl⟩ := List.mem_map.1 hx
    rw [List.mem_singleton.1 hy, pn]
    exact free z hz
  · intro x hx
    obtain hx | hx := List.mem_append.1 hx
    · exact nonzero x hx
    · rw [List.mem_singleton.1 hx, pn]
      exact next

theorem writeQueueWf_remove {q : WriteQueue} (h : WriteQueueWf q) (pns : List PN) :
    WriteQueueWf (q.remove pns) := by
  obtain ⟨places, distinct, nonzero, next⟩ := h
  exact ⟨(List.length_filter_le _ _).trans places,
    distinct.sublist ((List.filter_sublist (p := _)).map _),
    fun e he => nonzero e (List.mem_of_mem_filter he), next⟩

theorem writeQueueWf_update {q : WriteQueue} (h : WriteQueueWf q) (pn : PN)
    {f : WriteEntry → WriteEntry} (same : ∀ e, (f e).pn = e.pn) : WriteQueueWf (q.update pn f) := by
  obtain ⟨places, distinct, nonzero, next⟩ := h
  have pns := update_pns q pn same
  refine ⟨by simpa [WriteQueue.update] using places, pns ▸ distinct, fun e he => ?_, next⟩
  have mem : e.pn ∈ q.entries.map (·.pn) := pns ▸ List.mem_map_of_mem he
  obtain ⟨x, hx, hpn⟩ := List.mem_map.1 mem
  exact hpn ▸ nonzero x hx

theorem EntriesOp.keeps {q q' : WriteQueue} (op : EntriesOp q q') (h : WriteQueueWf q) :
    WriteQueueWf q' := by
  cases op with
  | keep => exact h
  | change pn same => exact writeQueueWf_update h pn same
  | push room pn => exact writeQueueWf_push h room pn
  | remove pns => exact writeQueueWf_remove h pns
  | retire pn => exact writeQueueWf_remove (q := { q with lastFenceRetired := pn }) h [pn]
  | empty =>
    obtain ⟨-, -, -, next⟩ := h
    exact ⟨Nat.zero_le _, List.nodup_nil, nofun, next⟩
  | reset => exact ⟨Nat.zero_le _, List.nodup_nil, nofun, by decide⟩

/-- Settles O56: what a step does to the write queue is a sequence of its operations. -/
theorem stepKeepsWriteQueueWf : Obligations.StepKeepsWriteQueueWf := by
  unfold Obligations.StepKeepsWriteQueueWf
  exact fun s t wf h => step_keeps (P := fun s => WriteQueueWf s.wq)
    (fun _ _ u => u.entriesOp.keeps) (fun _ _ e => e.entriesOp.keeps) h wf

end Sys2Proof.Machine
end

section
/-! The Target Table: what the updates do to admission states and live configurations, and the live
windows, which every step keeps aligned and apart (R3, R4). -/

namespace Sys2Proof.Machine

/-! ## Admission states and live configurations after an update -/

theorem targets_set_ne {s : State} {t x : Target} (e : TargetEntry) (h : x ≠ t) :
    (s.targets.set t e)[x] = s.targets[x] := by
  simp only [Fin.getElem_fin]
  rw [Vector.getElem_set_ne _ _ fun same => h (Fin.ext same.symm)]

theorem targets_set_self {s : State} {t : Target} (e : TargetEntry) :
    (s.targets.set t e)[t] = e := by simp

@[simp] theorem admission_setTarget (s : State) (t x : Target) (e : TargetEntry) :
    (s.setTarget t e).admission x = if x = t then e.admission else s.admission x := by
  by_cases h : x = t
  · rw [if_pos h, h]
    exact congrArg TargetEntry.admission (targets_set_self e)
  · rw [if_neg h]
    exact congrArg TargetEntry.admission (targets_set_ne e h)

@[simp] theorem live_setTarget (s : State) (t x : Target) (e : TargetEntry) :
    (s.setTarget t e).live x = if x = t then e.live else s.live x := by
  by_cases h : x = t
  · rw [if_pos h, h]
    exact congrArg TargetEntry.live (targets_set_self e)
  · rw [if_neg h]
    exact congrArg TargetEntry.live (targets_set_ne e h)

@[simp] theorem admission_stage (t x : Target) (f : TargetConfig → TargetConfig) (s : State) :
    (stage t f s).admission x = s.admission x := by
  rw [stage, admission_setTarget]
  split
  · next h => rw [h]; rfl
  · rfl

@[simp] theorem live_stage (t x : Target) (f : TargetConfig → TargetConfig) (s : State) :
    (stage t f s).live x = s.live x := by
  rw [stage, live_setTarget]
  split
  · next h => rw [h]; rfl
  · rfl

@[simp] theorem admission_openTarget (s : State) (t x : Target) :
    (s.openTarget t).admission x = if x = t then .opened else s.admission x :=
  admission_setAdmission s t x .opened

@[simp] theorem live_openTarget (s : State) (t x : Target) :
    (s.openTarget t).live x = s.live x := live_setAdmission s t x .opened

@[simp] theorem admission_clearEverything (s : State) (x : Target) :
    (clearEverything s).admission x
      = if (s.admission x).isHalted then .opened else s.admission x := by
  simp [State.admission, clearEverything]
  rfl

@[simp] theorem live_clearEverything (s : State) (x : Target) :
    (clearEverything s).live x = s.live x := by
  simp [State.live, clearEverything]

theorem admission_reset (x : Target) : State.reset.admission x = .disabled := by
  revert x
  decide

/-- A target enabled before is what an opened one was. -/
theorem enabled_of_halted {a : Admission} {fault : FaultRecord} (h : a = .halted fault) :
    a.enabled = true := by rw [h]; rfl

/-- An update enables no target but by ENABLE, and changes no enabled target's live configuration. -/
theorem Update.live_of_enabled {s t : State} (h : Update s t) :
    (∀ x, (t.admission x).enabled = true → (s.admission x).enabled = true ∧ t.live x = s.live x)
      ∨ ∃ x, s.admission x = .disabled ∧ s.enableFault? s.targets[x].staged = none
        ∧ t = s.setTarget x ⟨s.targets[x].staged, s.targets[x].staged, .opened⟩ := by
  have opening : ∀ x, (s.admission x).enabled = true → ∀ y,
      ((s.openTarget x).admission y).enabled = true →
      (s.admission y).enabled = true ∧ (s.openTarget x).live y = s.live y := by
    intro x hx y hy
    refine ⟨?_, live_openTarget s x y⟩
    by_cases same : y = x
    · rw [same]; exact hx
    · rwa [admission_openTarget, if_neg same] at hy
  cases h
  case enable x disabled passed => exact .inr ⟨x, disabled, passed, rfl⟩
  all_goals left
  case stage x f => exact fun y hy => ⟨by rwa [admission_stage] at hy, live_stage x y f s⟩
  case disable x _ =>
    intro y hy
    rw [admission_setAdmission] at hy
    split at hy
    · cases hy
    · exact ⟨hy, live_setAdmission s x y _⟩
  case resumeFailed halted => exact opening _ (enabled_of_halted halted)
  case resume halted => exact opening _ (enabled_of_halted halted)
  case skip halted => exact opening _ (enabled_of_halted halted)
  case discard enabled _ => exact opening _ enabled
  case clear =>
    intro y hy
    refine ⟨?_, live_clearEverything s y⟩
    rw [admission_clearEverything] at hy
    split at hy
    · next halted => exact enabled_iff.2 fun e => by simp [e, Admission.isHalted] at halted
    · exact hy
  case reset =>
    intro y hy
    exact absurd (admission_reset y) (enabled_iff.1 hy)
  case attention x _ =>
    obtain e | ⟨r, -, e⟩ | ⟨-, e⟩ := takeAttention_cases x s <;> rw [e] <;> exact fun y hy => ⟨hy, rfl⟩
  case release x =>
    obtain ⟨au, e⟩ := releaseAttention_frame x s
    rw [e]
    exact fun y hy => ⟨hy, rfl⟩
  case grant r _ _ =>
    obtain ⟨_, _, _, _, _, e⟩ := grant_frame r s
    rw [e]
    exact fun y hy => ⟨hy, rfl⟩
  all_goals exact fun y hy => ⟨hy, rfl⟩

theorem EndEffect.live_of_enabled {s t : State} (h : EndEffect s t) (x : Target) :
    ((t.admission x).enabled = true ↔ (s.admission x).enabled = true) ∧ t.live x = s.live x := by
  cases h
  case count a => unfold countWatches; split <;> exact ⟨.rfl, rfl⟩
  case halt y fault _ opened =>
    refine ⟨?_, live_setAdmission s y x _⟩
    rw [admission_setAdmission]
    split
    · next same => rw [same, opened]; exact ⟨fun _ => rfl, fun _ => rfl⟩
    · exact .rfl
  all_goals exact ⟨.rfl, rfl⟩

/-! ## The live windows -/

/-- A configuration that passes ENABLE's checks is well formed and meets no live window (R4). -/
theorem enableFault_eq_none {s : State} {c : TargetConfig} : s.enableFault? c = none ↔
    liveConfigWf c ∧ ∀ u, (s.admission u).enabled = true → windowsMeet c (s.live u) = false := by
  unfold State.enableFault? liveConfigWf
  by_cases aligned : c.base.toNat % c.size.bytes = 0
  · rw [if_neg (not_not.2 aligned)]
    by_cases strobe : c.strobe = 0
    · rw [if_pos strobe]
      exact ⟨nofun, fun h => absurd strobe h.1.2.1⟩
    · rw [if_neg strobe]
      by_cases timeout : c.timeout = 0
      · rw [if_pos timeout]
        exact ⟨nofun, fun h => absurd timeout h.1.2.2⟩
      · rw [if_neg timeout, and_iff_right ⟨aligned, strobe, timeout⟩]
        simp [State.overlap?, mem_allTargets]
  · rw [if_pos aligned]
    exact ⟨nofun, fun h => absurd h.1.1 aligned⟩

theorem windowsWf_of_live {s t : State} (wf : WindowsWf s) (h : ∀ x,
    (t.admission x).enabled = true → (s.admission x).enabled = true ∧ t.live x = s.live x) :
    WindowsWf t := by
  obtain ⟨configs, apart⟩ := wf
  refine ⟨fun x hx => ?_, fun x y ne hx hy => ?_⟩
  · obtain ⟨enabled, live⟩ := h x hx
    exact live ▸ configs x enabled
  · obtain ⟨ex, lx⟩ := h x hx
    obtain ⟨ey, ly⟩ := h y hy
    exact lx ▸ ly ▸ apart x y ne ex ey

/-- ENABLE loads a window that its checks found apart from the others. -/
theorem windowsWf_enable {s : State} {x : Target} {c : TargetConfig} (wf : WindowsWf s)
    (passed : s.enableFault? c = none) :
    WindowsWf (s.setTarget x ⟨c, c, .opened⟩) := by
  obtain ⟨configs, apart⟩ := wf
  obtain ⟨config, clear⟩ := enableFault_eq_none.1 passed
  refine ⟨fun y hy => ?_, fun y z ne hy hz => ?_⟩
  · rw [live_setTarget]
    rw [admission_setTarget] at hy
    split at hy
    · next h => rwa [if_pos h]
    · next h => rw [if_neg h]; exact configs y hy
  · rw [live_setTarget, live_setTarget]
    rw [admission_setTarget] at hy hz
    split at hy <;> split at hz
    · next hyx hzx => exact absurd (hyx.trans hzx.symm) ne
    · next hyx hzx => rw [if_pos hyx, if_neg hzx]; exact clear z hz
    · next hyx hzx => rw [if_neg hyx, if_pos hzx, windowsMeet_comm]; exact clear y hy
    · next hyx hzx => rw [if_neg hyx, if_neg hzx]; exact apart y z ne hy hz

/-- Settles O57: only ENABLE changes the live window of an enabled target, after its checks. -/
theorem stepKeepsWindowsWf : Obligations.StepKeepsWindowsWf := by
  unfold Obligations.StepKeepsWindowsWf
  intro s t wf h
  refine step_keeps (P := WindowsWf) (fun u v update wf => ?_) (fun u v effect wf => ?_) h wf
  · obtain kept | ⟨x, -, passed, rfl⟩ := update.live_of_enabled
    · exact windowsWf_of_live wf kept
    · exact windowsWf_enable wf passed
  · exact windowsWf_of_live wf fun x hx =>
      ⟨(effect.live_of_enabled x).1.1 hx, (effect.live_of_enabled x).2⟩

end Sys2Proof.Machine
end

section
/-! Four invariants that stand on their own: the access in flight, the comparators, the hold, and the
held attention records, each kept by every step (R29, R71, R72, R78, R82, R102, R118 to R121, R123,
R127). -/

namespace Sys2Proof.Machine

/-! ## The access in flight -/

/-- The target is Open, out of recovery, and no turnaround runs: an access of it may be in flight
(R71, R72, R102). -/
def State.servable (s : State) (t : Target) : Prop :=
  s.admission t = .opened ∧ s.dbe.recovery[t] = none ∧ s.dbe.turnaround = none

/-- A target is idle where none of the five conditions of R6 holds. -/
theorem busyWith_eq_none {s : State} {t : Target} : s.busyWith? t = none ↔
    s.inFlight t = false ∧ s.holdsCycleOf t = false ∧ s.wq.entries.any (·.isWriteOf t) = false
      ∧ (s.fs.toList.any fun r => r.state.holdsRequest && r.target == t) = false
      ∧ s.au[t].record = none := by
  unfold State.busyWith?
  rw [← Option.not_isSome_iff_eq_none (o := s.au[t].record)]
  split_ifs <;> simp_all

/-- An Open target with an access in flight stays Open but through a reset. -/
theorem Update.opened {s t : State} (h : Update s t) {x : Target} (opened : s.admission x = .opened)
    (flight : s.inFlight x = true) : t.admission x = .opened ∨ t.dbe.access = none := by
  have opening : ∀ y, (s.openTarget y).admission x = .opened := by
    intro y
    rw [admission_openTarget]
    split
    · rfl
    · exact opened
  cases h
  case stage y f => exact .inl ((admission_stage y x f s).trans opened)
  case enable y disabled _ =>
    left
    rw [admission_setTarget]
    split
    · rfl
    · exact opened
  case disable y idle =>
    left
    rw [admission_setAdmission, if_neg, opened]
    rintro rfl
    exact Bool.noConfusion (flight.symm.trans (busyWith_eq_none.1 idle).1)
  case resumeFailed => exact .inl (opening _)
  case resume => exact .inl (opening _)
  case skip => exact .inl (opening _)
  case discard => exact .inl (opening _)
  case clear =>
    left
    rw [admission_clearEverything, opened]
    rfl
  case reset => exact .inr rfl
  case attention y _ =>
    obtain e | ⟨r, -, e⟩ | ⟨-, e⟩ := takeAttention_cases y s <;> rw [e] <;> exact .inl opened
  case release y =>
    obtain ⟨au, e⟩ := releaseAttention_frame y s
    rw [e]
    exact .inl opened
  case grant r _ _ =>
    obtain ⟨_, _, _, _, _, e⟩ := grant_frame r s
    rw [e]
    exact .inl opened
  all_goals exact .inl opened

/-- Where an update changes the device bus: a phase, a timer that expires, a grant, a reset. -/
theorem Update.dbe_cases {s t : State} (h : Update s t) : t.dbe = s.dbe
    ∨ (∃ a b, s.dbe.access = some a ∧ b.request = a.request ∧ b.target = a.target
        ∧ ((a.result ≠ none ↔ a.phase = .hold) → (b.result ≠ none ↔ b.phase = .hold))
        ∧ t = setAccess (some b) s)
    ∨ (∃ x : Target, t = { s with dbe := { s.dbe with recovery := s.dbe.recovery.set x none } })
    ∨ t = { s with dbe := { s.dbe with turnaround := none } }
    ∨ (∃ r, s.mayGrant = true ∧ s.winner? = some r ∧ t = Machine.grant r s)
    ∨ t.dbe = State.reset.dbe := by
  cases h
  case phase a b request target result access =>
    exact .inr (.inl ⟨a, b, access, request, target, result, rfl⟩)
  case recovery x => exact .inr (.inr (.inl ⟨x, rfl⟩))
  case turnaround => exact .inr (.inr (.inr (.inl rfl)))
  case grant r free winner => exact .inr (.inr (.inr (.inr (.inl ⟨r, free, winner, rfl⟩))))
  case reset => exact .inr (.inr (.inr (.inr (.inr rfl))))
  case attention x _ =>
    left
    obtain e | ⟨r, -, e⟩ | ⟨-, e⟩ := takeAttention_cases x s <;> rw [e] <;> rfl
  case release x =>
    left
    obtain ⟨au, e⟩ := releaseAttention_frame x s
    rw [e]
  all_goals exact .inl rfl

theorem Update.keeps_accessInFlight {s t : State} (h : Update s t) (wf : AccessInFlightWf s) :
    AccessInFlightWf t := by
  obtain same | ⟨a, b, access, -, target, -, rfl⟩ | ⟨x, rfl⟩ | rfl | ⟨r, free, winner, rfl⟩ | reset :=
    h.dbe_cases
  · intro a flight
    rw [same] at flight ⊢
    obtain ⟨opened, timers⟩ := wf a flight
    refine ⟨(h.opened opened (inFlight_iff.2 ⟨a, flight, rfl⟩)).resolve_right ?_, timers⟩
    rw [same, flight]
    exact nofun
  · intro c flight
    obtain rfl : b = c := Option.some.inj flight
    have servable : s.servable a.target := wf a access
    exact (target ▸ servable : s.servable b.target)
  · intro a flight
    obtain ⟨opened, recovery, turnaround⟩ := wf a flight
    refine ⟨opened, ?_, turnaround⟩
    simp only [Fin.getElem_fin, Vector.getElem_set]
    split
    · rfl
    · exact recovery
  · intro a flight
    obtain ⟨opened, recovery, -⟩ := wf a flight
    exact ⟨opened, recovery, rfl⟩
  · have eligible := (winner_mem winner).2
    obtain ⟨x, b, u, hx, -, target, -, -, granted, -⟩ := grant_cases eligible
    obtain ⟨-, ⟨y, hy, opened, recovery⟩, -⟩ := eligible_iff.1 eligible
    obtain ⟨-, turnaround, -⟩ := mayGrant_iff.1 free
    obtain rfl : y = x := Option.some.inj (hy.symm.trans hx)
    subst target
    have dbe : (Machine.grant r s).dbe = { s.dbe with access := some b } := by rw [granted]
    have admission : (Machine.grant r s).admission = s.admission := by
      obtain ⟨_, _, _, _, _, e⟩ := grant_frame r s
      rw [e]
      rfl
    intro c flight
    rw [dbe] at flight ⊢
    obtain rfl : b = c := Option.some.inj flight
    rw [admission]
    exact ⟨opened, recovery, turnaround⟩
  · intro a flight
    rw [reset] at flight
    cases flight

theorem EndEffect.keeps_accessInFlight {s t : State} (h : EndEffect s t)
    (wf : AccessInFlightWf s) : AccessInFlightWf t := by
  cases h
  case free => exact fun _ flight => nomatch flight
  case count a => unfold countWatches; split <;> exact wf
  case halt x fault idle _ =>
    intro a flight
    rw [setAdmission_dbe, idle] at flight
    cases flight
  all_goals exact wf

/-! ## The comparators -/

theorem keeps_comparator {c : Comparator} {a : Access}
    (h : c.armed = true → c.remaining ≠ 0 ∧ c.remaining ≤ c.count) :
    (c.after a).armed = true → (c.after a).remaining ≠ 0 ∧ (c.after a).remaining ≤ (c.after a).count := by
  cases matched : c.matchesAccess a with
  | false => rwa [after_of_miss matched]
  | true =>
    obtain ⟨nonzero, le⟩ := h (matchesAccess_iff.1 matched).1
    cases fired : c.fires a with
    | false =>
      have more : c.remaining ≠ 1 := fun one => Bool.eq_false_iff.1 fired (fires_iff.2 ⟨matched, one⟩)
      rw [after_of_counts matched fired]
      exact fun _ => ⟨by bv_omega, by bv_omega⟩
    | true =>
      cases repeats : c.repeats with
      | true =>
        rw [after_of_fires_repeating fired repeats]
        exact fun _ => ⟨by bv_omega, BitVec.le_refl _⟩
      | false =>
        rw [after_of_fires_once fired repeats]
        exact nofun

theorem comparatorsWf_reset : ComparatorsWf State.reset := by
  intro n
  revert n
  decide

theorem Update.keeps_comparators {s t : State} (h : Update s t) (wf : ComparatorsWf s) :
    ComparatorsWf t := by
  cases h
  case comparator n v =>
    intro m
    simp only [Fin.getElem_fin, Vector.getElem_set]
    split
    · exact fun armed => ⟨by simpa [comparatorOfWord] using armed, BitVec.le_refl _⟩
    · exact wf m
  case disarm => exact fun n armed => by simp at armed
  case reset => exact comparatorsWf_reset
  case attention x _ =>
    obtain e | ⟨r, -, e⟩ | ⟨-, e⟩ := takeAttention_cases x s <;> rw [e] <;> exact wf
  case release x =>
    obtain ⟨au, e⟩ := releaseAttention_frame x s
    rw [e]
    exact wf
  case grant r _ _ =>
    obtain ⟨_, _, _, _, _, e⟩ := grant_frame r s
    rw [e]
    exact wf
  all_goals exact wf

theorem EndEffect.keeps_comparators {s t : State} (h : EndEffect s t) (wf : ComparatorsWf s) :
    ComparatorsWf t := by
  cases h
  case count a =>
    unfold countWatches
    split
    · intro n
      simp only [Fin.getElem_fin, Vector.getElem_map]
      exact keeps_comparator (wf n)
    · exact wf
  all_goals exact wf

/-! ## The hold -/

theorem holdWf_congr {s t : State} (held : t.hif.held = s.hif.held)
    (timer : t.hif.holdTimer = s.hif.holdTimer) (due : t.hif.recheckDue = s.hif.recheckDue)
    (wf : HoldWf s) : HoldWf t := by
  unfold HoldWf State.heldWrite? at wf ⊢
  rwa [held, timer, due]

theorem holdWf_none_iff {s : State} (h : s.hif.held = none) :
    HoldWf s ↔ s.hif.holdTimer = none ∧ s.hif.recheckDue = false := by
  simp [HoldWf, State.heldWrite?, h]

theorem holdWf_write_iff {s : State} {w : HeldWrite} (h : s.hif.held = some (.write w)) :
    HoldWf s ↔ s.hif.holdTimer ≠ none := by
  simp [HoldWf, State.heldWrite?, h]

theorem holdWf_read_iff {s : State} {r : HeldRead} (h : s.hif.held = some (.read r)) :
    HoldWf s ↔ (s.hif.holdTimer ≠ none ↔ r.cycle = .opened)
      ∧ (r.phase = .waiting → r.cycle = .opened) ∧ s.hif.recheckDue = false := by
  simp [HoldWf, State.heldWrite?, h, and_assoc]

theorem heldWrite_eq_some_iff {s : State} {w : HeldWrite} :
    s.heldWrite? = some w ↔ s.hif.held = some (.write w) := by
  unfold State.heldWrite?
  split
  · next held => simp [held]
  · next notWrite => exact ⟨nofun, fun held => absurd held (notWrite w)⟩

theorem holdWf_leaveQueue {s : State} (pns : List PN) (dropped : Bool) (wf : HoldWf s) :
    HoldWf (leaveQueue pns dropped s) := by
  cases held : s.hif.held with
  | none =>
    refine holdWf_congr ?_ ?_ ?_ wf <;> rw [leaveQueue_hif] <;> split <;>
      simp [queueDeparture_eq, held]
  | some a =>
    cases a with
    | read r =>
      refine holdWf_congr ?_ ?_ ?_ wf <;> rw [leaveQueue_hif] <;> split <;>
        simp [queueDeparture_eq, held]
    | write w =>
      refine (holdWf_write_iff (w := w) ?_).2 ?_
      · rw [leaveQueue_hif]; split <;> simp [queueDeparture_eq, held]
      · have timer := (holdWf_write_iff held).1 wf
        rw [leaveQueue_hif]; split <;> simpa [queueDeparture_eq] using timer

theorem holdWf_ended (s : State) : HoldWf (endHold s) := (holdWf_none_iff rfl).2 ⟨rfl, rfl⟩

theorem Update.keeps_hold {s t : State} (h : Update s t) (wf : HoldWf s) : HoldWf t := by
  cases h
  case skip => exact holdWf_leaveQueue _ _ wf
  case discard => exact holdWf_leaveQueue _ _ wf
  case retire => exact holdWf_leaveQueue _ _ wf
  case enterHeld => exact holdWf_ended s
  case dropWrite => exact holdWf_ended s
  case dropRead => exact holdWf_ended s
  case clear => exact holdWf_ended s
  case reset => exact holdWf_ended s
  case holdWrite => exact (holdWf_write_iff rfl).2 nofun
  case holdRead =>
    exact (holdWf_read_iff rfl).2 ⟨⟨fun _ => rfl, fun _ => nofun⟩, fun _ => rfl, rfl⟩
  case recheckAnswered => exact ⟨wf.1, nofun⟩
  case endCycle r issued held =>
    obtain ⟨-, -, due⟩ := (holdWf_read_iff (heldRead_eq_some_iff.1 held)).1 wf
    refine (holdWf_read_iff rfl).2 ⟨⟨fun e => absurd rfl e, nofun⟩, fun waiting => ?_, due⟩
    exact absurd (issued.symm.trans waiting) nofun
  case attention x _ =>
    obtain e | ⟨r, -, e⟩ | ⟨-, e⟩ := takeAttention_cases x s <;> rw [e] <;> exact wf
  case release x =>
    obtain ⟨au, e⟩ := releaseAttention_frame x s
    rw [e]
    exact wf
  case grant r _ winner =>
    obtain ⟨_, _, _, -, -, -, -, -, e, ⟨_, _, -, -, rfl⟩ | ⟨q, -, held, -, rfl⟩ | ⟨_, -, -, rfl⟩⟩ :=
      grant_cases (winner_mem winner).2 <;> rw [e]
    · exact wf
    · obtain ⟨timer, -, due⟩ := (holdWf_read_iff (heldRead_eq_some_iff.1 held)).1 wf
      exact (holdWf_read_iff (r := { q with phase := .issued }) rfl).2 ⟨timer, nofun, due⟩
    · exact wf
  all_goals exact wf

theorem EndEffect.keeps_hold {s t : State} (h : EndEffect s t) (wf : HoldWf s) : HoldWf t := by
  cases h
  case count a => unfold countWatches; split <;> exact wf
  case leave => exact holdWf_leaveQueue _ _ wf
  case dropRead => exact holdWf_ended s
  case readWaits r a opened held =>
    obtain ⟨timer, -, due⟩ := (holdWf_read_iff (heldRead_eq_some_iff.1 held)).1 wf
    exact (holdWf_read_iff (r := r.lowTaken a) rfl).2 ⟨timer, fun _ => opened, due⟩
  all_goals exact wf

/-! ## The held attention records -/

/-- A struck record keeps its count, loses the departed, and marks a removal of one of its own
(R120). -/
theorem strike_record (a : AttentionInput) (pns : List PN) (dropped : Bool) :
    (a.strike pns dropped).record = a.record.map fun r =>
      { count := r.count
        writesDropped := r.writesDropped || (dropped && r.waitSet.any pns.contains)
        waitSet := r.waitSet.filter fun m => !pns.contains m } := by
  obtain ⟨high, record⟩ := a
  cases record with
  | none => rfl
  | some r =>
    simp only [AttentionInput.strike, Option.map_some, Option.some.injEq]
    split
    · next held => rw [held, Bool.and_true]
    · next untouched =>
      have all : (r.waitSet.filter fun m => !pns.contains m) = r.waitSet :=
        List.filter_eq_self.2 fun m hm => by
          simp only [List.any_eq_true, not_exists, not_and] at untouched
          simpa using untouched m hm
      rw [Bool.eq_false_iff.2 untouched, Bool.and_false, Bool.or_false, all]

/-- Every write entry of the first queue has one of its name and target in the second. -/
def keepsWrites (q q' : WriteQueue) : Prop := ∀ e, .write e ∈ q.entries →
  ∃ e', .write e' ∈ q'.entries ∧ e'.pn = e.pn ∧ e'.target = e.target

theorem keepsWrites_push (q : WriteQueue) (e : QueueEntry) : keepsWrites q (q.push e) :=
  fun x hx => ⟨x, List.mem_append_left _ hx, rfl, rfl⟩

theorem keepsWrites_update (q : WriteQueue) (pn : PN) {f : WriteEntry → WriteEntry}
    (hp : ∀ e, (f e).pn = e.pn) (ht : ∀ e, (f e).target = e.target) :
    keepsWrites q (q.update pn f) := by
  intro x hx
  by_cases h : x.pn = pn
  · exact ⟨f x, List.mem_map.2 ⟨_, hx, if_pos h⟩, hp x, ht x⟩
  · exact ⟨x, List.mem_map.2 ⟨_, hx, if_neg h⟩, rfl, rfl⟩

/-- Records that stay as they are, for targets still enabled, with their entries still present. -/
theorem attentionRecordsWf_of {s t : State} (wf : AttentionRecordsWf s)
    (records : ∀ (x : Target) r, t.au[x].record = some r → s.au[x].record = some r)
    (enabled : ∀ x : Target, s.au[x].record ≠ none → (s.admission x).enabled = true →
      (t.admission x).enabled = true)
    (writes : keepsWrites s.wq t.wq) : AttentionRecordsWf t := by
  intro x r held
  have old := records x r held
  obtain ⟨low, high, isEnabled, members⟩ := wf x r old
  refine ⟨low, high, enabled x (by rw [old]; nofun) isEnabled, fun pn hpn => ?_⟩
  obtain ⟨e, he, hp, ht⟩ := members pn hpn
  obtain ⟨e', he', hp', ht'⟩ := writes e he
  exact ⟨e', he', hp'.trans hp, ht'.trans ht⟩

theorem attentionRecordsWf_leaveQueue {s : State} (pns : List PN) (dropped : Bool)
    (wf : AttentionRecordsWf s) : AttentionRecordsWf (leaveQueue pns dropped s) := by
  intro x r held
  have struck : (s.au[x].strike pns dropped).record = some r := by
    rw [← held, leaveQueue_au, Fin.getElem_fin, Fin.getElem_fin, Vector.getElem_map]
  rw [strike_record, Option.map_eq_some_iff] at struck
  obtain ⟨q, hq, rfl⟩ := struck
  obtain ⟨low, high, enabled, members⟩ := wf x q hq
  refine ⟨low, high, enabled, fun pn hpn => ?_⟩
  obtain ⟨hpn, stays⟩ := List.mem_filter.1 hpn
  obtain ⟨e, he, rfl, ht⟩ := members pn hpn
  exact ⟨e, List.mem_filter.2 ⟨he, stays⟩, rfl, ht⟩

theorem mem_pnsOf {q : WriteQueue} {t : Target} {pn : PN} :
    pn ∈ q.pnsOf t ↔ ∃ e, .write e ∈ q.entries ∧ e.pn = pn ∧ e.target = t := by
  rw [pnsOf_eq, List.mem_filterMap]
  constructor
  · rintro ⟨x, hx, found⟩
    cases x with
    | write e =>
      obtain ⟨target, rfl⟩ : e.target = t ∧ e.pn = pn := by simpa using found
      exact ⟨e, hx, rfl, target⟩
    | fence f => cases found
  · rintro ⟨e, he, rfl, rfl⟩
    exact ⟨.write e, he, by simp⟩

theorem au_set_cases {s : State} {t x : Target} {a : AttentionInput} {r : AttentionRecord}
    (h : (s.au.set t a)[x].record = some r) :
    (x = t ∧ a.record = some r) ∨ s.au[x].record = some r := by
  simp only [Fin.getElem_fin, Vector.getElem_set] at h
  split at h
  · next same => exact .inl ⟨Fin.ext same.symm, h⟩
  · exact .inr h

theorem attentionRecordsWf_set {s : State} {t : Target} {r : AttentionRecord}
    (wf : AttentionRecordsWf s) (new : 1 ≤ r.count ∧ r.count ≤ 15 ∧ (s.admission t).enabled
      ∧ ∀ pn ∈ r.waitSet, ∃ e, .write e ∈ s.wq.entries ∧ e.pn = pn ∧ e.target = t) :
    AttentionRecordsWf (setRecord t r s) := by
  intro x q held
  obtain ⟨rfl, h⟩ | h := au_set_cases held
  · obtain rfl := Option.some.inj h
    exact new
  · exact wf x q h

theorem attentionRecordsWf_takeAttention {s : State} {t : Target} (wf : AttentionRecordsWf s)
    (enabled : (s.admission t).enabled = true) : AttentionRecordsWf (takeAttention t s) := by
  obtain e | ⟨r, held, e⟩ | ⟨-, e⟩ := takeAttention_cases t s <;> rw [e]
  · exact wf
  · obtain ⟨low, high, -, members⟩ := wf t r held
    refine attentionRecordsWf_set wf ⟨?_, ?_, enabled, members⟩ <;> dsimp only <;> split <;> omega
  · exact attentionRecordsWf_set wf ⟨le_rfl, by simp, enabled, fun _ => mem_pnsOf.1⟩

theorem Update.keeps_attentionRecords {s t : State} (h : Update s t) (wf : AttentionRecordsWf s) :
    AttentionRecordsWf t := by
  have opening : ∀ x, AttentionRecordsWf (s.openTarget x) := fun x =>
    attentionRecordsWf_of wf (fun _ _ => id) (fun y _ enabled => by
      rw [admission_openTarget]; split <;> [rfl; exact enabled]) fun e he => ⟨e, he, rfl, rfl⟩
  cases h
  case stage x f =>
    exact attentionRecordsWf_of wf (fun _ _ => id)
      (fun y _ enabled => by rwa [admission_stage]) fun e he => ⟨e, he, rfl, rfl⟩
  case enable x _ _ =>
    exact attentionRecordsWf_of wf (fun _ _ => id) (fun y _ enabled => by
      rw [admission_setTarget]; split <;> [rfl; exact enabled]) fun e he => ⟨e, he, rfl, rfl⟩
  case disable x idle =>
    refine attentionRecordsWf_of wf (fun _ _ => id) (fun y held enabled => ?_)
      fun e he => ⟨e, he, rfl, rfl⟩
    rw [admission_setAdmission, if_neg]
    · exact enabled
    · rintro rfl
      obtain ⟨-, -, -, -, none⟩ := busyWith_eq_none.1 idle
      exact held none
  case resumeFailed x pn _ _ _ _ =>
    exact attentionRecordsWf_of (opening x) (fun _ _ => id) (fun _ _ => id)
      (keepsWrites_update _ _ (fun _ => rfl) fun _ => rfl)
  case resume => exact opening _
  case skip => exact attentionRecordsWf_leaveQueue _ _ (opening _)
  case discard => exact attentionRecordsWf_leaveQueue _ _ (opening _)
  case retire => exact attentionRecordsWf_leaveQueue _ _ wf
  case fence | enter | enterHeld =>
    exact attentionRecordsWf_of wf (fun _ _ => id) (fun _ _ => id) (keepsWrites_push _ _)
  case merge =>
    exact attentionRecordsWf_of wf (fun _ _ => id) (fun _ _ => id)
      (keepsWrites_update _ _ (fun _ => rfl) fun _ => rfl)
  case clear => exact fun x r held => by simp [clearEverything] at held
  case reset => exact fun x r held => by simp at held
  case flip x =>
    refine attentionRecordsWf_of wf (fun y r held => ?_) (fun _ _ => id)
      fun e he => ⟨e, he, rfl, rfl⟩
    obtain ⟨rfl, h⟩ | h := au_set_cases held <;> exact h
  case attention x enabled => exact attentionRecordsWf_takeAttention wf enabled
  case release x =>
    cases hr : s.au[x].record with
    | none => simpa only [releaseAttention, hr] using wf
    | some r =>
      rw [releaseAttention_of_some hr]
      refine attentionRecordsWf_of wf (fun y q held => ?_) (fun _ _ => id)
        fun e he => ⟨e, he, rfl, rfl⟩
      obtain ⟨-, h⟩ | h := au_set_cases held
      · cases h
      · exact h
  case grant r _ winner =>
    obtain ⟨_, _, _, -, -, -, -, -, e, ⟨_, _, -, -, rfl⟩ | ⟨_, -, -, -, rfl⟩ | ⟨_, -, -, rfl⟩⟩ :=
      grant_cases (winner_mem winner).2 <;> rw [e]
    · exact attentionRecordsWf_of wf (fun _ _ => id) (fun _ _ => id)
        (keepsWrites_update _ _ (fun _ => rfl) fun _ => rfl)
    · exact wf
    · exact wf
  all_goals exact wf

theorem EndEffect.keeps_attentionRecords {s t : State} (h : EndEffect s t)
    (wf : AttentionRecordsWf s) : AttentionRecordsWf t := by
  cases h
  case count a => unfold countWatches; split <;> exact wf
  case changeEntry pn f names targets =>
    exact attentionRecordsWf_of wf (fun _ _ => id) (fun _ _ => id)
      (keepsWrites_update _ _ names targets)
  case leave => exact attentionRecordsWf_leaveQueue _ _ wf
  case halt x fault idle opened =>
    exact attentionRecordsWf_of wf (fun _ _ => id) (fun y _ enabled => by
      rw [admission_setAdmission]; split <;> [rfl; exact enabled]) fun e he => ⟨e, he, rfl, rfl⟩
  all_goals exact wf

/-- Settles O58: each of the four invariants is kept by every update and every effect of an access's
end. -/
theorem stepKeepsAccessHoldAndRecordWf : Obligations.StepKeepsAccessHoldAndRecordWf := by
  unfold Obligations.StepKeepsAccessHoldAndRecordWf
  exact fun s t h =>
    ⟨step_keeps (fun _ _ => Update.keeps_accessInFlight) (fun _ _ => EndEffect.keeps_accessInFlight) h,
      step_keeps (fun _ _ => Update.keeps_comparators) (fun _ _ => EndEffect.keeps_comparators) h,
      step_keeps (fun _ _ => Update.keeps_hold) (fun _ _ => EndEffect.keeps_hold) h,
      step_keeps (fun _ _ => Update.keeps_attentionRecords)
        (fun _ _ => EndEffect.keeps_attentionRecords) h⟩

end Sys2Proof.Machine
end

section
/-! The Order Unit: the present set is what the owners hold, and the wait-sets are what R43 gave them;
a request that stays, arrives or departs leaves it so, and so does every step (R40 to R45). -/

namespace Sys2Proof.Machine

/-! ## The wait-sets -/

theorem waitsForOlder_append {older : List RequestId} {ou : List PresentRequest}
    {r : PresentRequest} (wf : waitsForOlder older ou)
    (members : ∀ m ∈ r.waitSet, m ∈ older ++ ou.map (·.id)) : waitsForOlder older (ou ++ [r]) := by
  induction ou generalizing older with
  | nil => exact ⟨by simpa using members, trivial⟩
  | cons y ys ih =>
    obtain ⟨first, rest⟩ := wf
    exact ⟨first, ih rest (by simpa using members)⟩

theorem waitsForOlder_strike (ids : List RequestId) {older : List RequestId}
    {ou : List PresentRequest} (wf : waitsForOlder older ou) :
    waitsForOlder (older.filter fun m => !ids.contains m) (strike ids ou) := by
  induction ou generalizing older with
  | nil => trivial
  | cons y ys ih =>
    obtain ⟨first, rest⟩ := wf
    have others := ih rest
    rw [List.filter_append] at others
    cases gone : ids.contains y.id with
    | true => simpa [strike, gone, -List.contains_eq_mem] using others
    | false =>
      have struck : strike ids (y :: ys)
          = { y with waitSet := y.waitSet.filter fun m => !ids.contains m } :: strike ids ys := by
        simp [strike, gone, -List.contains_eq_mem]
      rw [struck]
      refine ⟨fun m hm => ?_, by
        simpa [List.filter_cons, gone, -List.contains_eq_mem] using others⟩
      obtain ⟨hm, stays⟩ := List.mem_filter.1 hm
      exact List.mem_filter.2 ⟨first m hm, stays⟩

/-- Whether one request waits for another is a matter of their targets' live configurations. -/
theorem waitsFor_congr {s t : State} {x y : Option Target}
    (hx : ∀ u, x = some u → t.live u = s.live u) (hy : ∀ u, y = some u → t.live u = s.live u) :
    t.waitsFor x y = s.waitsFor x y := by
  cases x with
  | none => rfl
  | some tx => cases y with
    | none => rfl
    | some ty => simp only [State.waitsFor, hx tx rfl, hy ty rfl]

theorem strike_pairwise {R : PresentRequest → PresentRequest → Prop} (ids : List RequestId)
    {ou : List PresentRequest} (h : ou.Pairwise fun y x =>
      y.id ∉ ids → x.id ∉ ids →
        R { y with waitSet := y.waitSet.filter fun m => !ids.contains m }
          { x with waitSet := x.waitSet.filter fun m => !ids.contains m }) :
    (strike ids ou).Pairwise R := by
  refine List.pairwise_map.2 (List.pairwise_filter.2 (h.imp fun h hy hx => h ?_ ?_))
  · simpa using hy
  · simpa using hx

/-! ## What the owners hold -/

/-- What the owner of a held read or a fetch holds under this name: its target, if it is present. -/
def State.owned (s : State) : RequestId → Option Target
  | .heldRead => s.heldRead?.map (·.target)
  | .fetch k => if s.fs[k].state.holdsRequest then some s.fs[k].target else none
  | .entry _ => none

/-- The requests of the write queue. -/
def State.entryRequests (s : State) : List (RequestId × Option Target) :=
  s.wq.entries.map entryRequest

theorem presentMatchesOwners_iff {s : State} : presentMatchesOwners s ↔
    (s.ou.map (·.id)).Nodup
      ∧ ((s.ou.filter fun r => r.id.isEntry).map fun r => (r.id, r.target)) = s.entryRequests
      ∧ (∀ r ∈ s.ou, r.id.isEntry = false → ∃ t, s.owned r.id = some t ∧ r.target = some t)
      ∧ ∀ id t, s.owned id = some t → ∃ r ∈ s.ou, r.id = id := by
  have fetchOwned : ∀ (k : SlotNo) t, s.owned (.fetch k) = some t ↔
      s.fs[k].state.holdsRequest = true ∧ s.fs[k].target = t := by
    intro k t
    simp [State.owned]
  unfold presentMatchesOwners
  refine and_congr_right fun _ => and_congr_right fun _ => ⟨?_, ?_⟩
  · rintro ⟨read, reads, fetch, fetches⟩
    refine ⟨fun r hr other => ?_, fun id t owned => ?_⟩
    · cases id : r.id with
      | entry pn => rw [id] at other; cases other
      | heldRead =>
        obtain ⟨h, held, target⟩ := read r hr id
        exact ⟨h.target, by simp [State.owned, held], target⟩
      | fetch k =>
        obtain ⟨holds, target⟩ := fetch r hr k id
        exact ⟨_, (fetchOwned k _).2 ⟨holds, rfl⟩, target⟩
    · cases id with
      | entry pn => cases owned
      | heldRead =>
        obtain ⟨h, held, -⟩ := Option.map_eq_some_iff.1 owned
        exact reads (by rw [held]; rfl)
      | fetch k => exact fetches k ((fetchOwned k t).1 owned).1
  · rintro ⟨present, holds⟩
    refine ⟨fun r hr id => ?_, fun held => ?_, fun r hr k id => ?_, fun k held => ?_⟩
    · obtain ⟨t, owned, target⟩ := present r hr (by rw [id]; rfl)
      rw [id] at owned
      obtain ⟨h, held, rfl⟩ := Option.map_eq_some_iff.1 owned
      exact ⟨h, held, target⟩
    · obtain ⟨h, held⟩ := Option.isSome_iff_exists.1 held
      exact holds .heldRead h.target (by simp [State.owned, held])
    · obtain ⟨t, owned, target⟩ := present r hr (by rw [id]; rfl)
      rw [id] at owned
      obtain ⟨held, rfl⟩ := (fetchOwned k t).1 owned
      exact ⟨held, target⟩
    · exact holds (.fetch k) _ ((fetchOwned k _).2 ⟨held, rfl⟩)

/-- No request of a name is present where its owner holds none. -/
theorem absent_of_not_owned {s : State} (h : presentMatchesOwners s) {id : RequestId}
    (other : id.isEntry = false) (none : s.owned id = none) : id ∉ s.ou.map (·.id) := by
  intro mem
  obtain ⟨r, hr, rfl⟩ := List.mem_map.1 mem
  obtain ⟨-, -, present, -⟩ := presentMatchesOwners_iff.1 h
  obtain ⟨t, owned, -⟩ := present r hr other
  rw [none] at owned
  cases owned

/-- The entries present are those of the queue. -/
theorem entry_mem_iff {s : State} (h : presentMatchesOwners s) {pn : PN} {x : Option Target} :
    (∃ r ∈ s.ou, r.id = .entry pn ∧ r.target = x) ↔ (RequestId.entry pn, x) ∈ s.entryRequests := by
  obtain ⟨-, entries, -, -⟩ := presentMatchesOwners_iff.1 h
  rw [← entries, List.mem_map]
  constructor
  · rintro ⟨r, hr, id, rfl⟩
    exact ⟨r, List.mem_filter.2 ⟨hr, by rw [id]; rfl⟩, by rw [id]⟩
  · rintro ⟨r, hr, e⟩
    obtain ⟨id, rfl⟩ := Prod.mk.inj e
    exact ⟨r, (List.mem_filter.1 hr).1, id, rfl⟩

theorem mem_entryRequests {s : State} {pn : PN} {x : Option Target} :
    (RequestId.entry pn, x) ∈ s.entryRequests ↔
      ∃ e ∈ s.wq.entries, entryRequest e = (.entry pn, x) := List.mem_map

theorem entryRequest_fst (e : QueueEntry) : (entryRequest e).1 = .entry e.pn := by
  cases e <;> rfl

/-! ## Requests that stay, arrive and depart -/

/-- The targets enabled before are enabled, with the live configuration they had. -/
def keepsEnabled (s t : State) : Prop :=
  ∀ x, (s.admission x).enabled = true → (t.admission x).enabled = true ∧ t.live x = s.live x

theorem keepsEnabled_of_targets {s t : State} (h : t.targets = s.targets) : keepsEnabled s t := by
  intro x enabled
  unfold State.admission State.live at *
  rw [h]
  exact ⟨enabled, rfl⟩

section
variable {s t : State}

/-- The present set, and what the owners hold, stay. -/
theorem orderWf_stay (wf : OrderWf s) (queue : WriteQueueWf t.wq) (ou : t.ou = s.ou)
    (entries : t.entryRequests = s.entryRequests) (owned : ∀ id, t.owned id = s.owned id)
    (enabled : ∀ r ∈ s.ou, ∀ x, r.target = some x →
      (t.admission x).enabled = true ∧ t.live x = s.live x)
    (held : ∀ w, t.heldWrite? = some w → (t.admission w.target).enabled = true) : OrderWf t := by
  obtain ⟨-, owners, -, older, exact⟩ := wf
  have owners : presentMatchesOwners t := by
    rw [presentMatchesOwners_iff] at owners ⊢
    simpa only [ou, entries, owned] using owners
  refine ⟨queue, owners, ⟨fun r hr x hx => (enabled r (ou ▸ hr) x hx).1, held⟩, ou ▸ older, ?_⟩
  unfold waitSetsExact at exact ⊢
  rw [ou]
  refine exact.imp_of_mem fun hy hx h => ?_
  rw [waitsFor_congr (s := s) (fun u hu => (enabled _ hx u hu).2) fun u hu => (enabled _ hy u hu).2]
  exact h

/-- A request arrives, new to the present set. -/
theorem orderWf_arrive {id : RequestId} {x : Option Target} (wf : OrderWf s)
    (queue : WriteQueueWf t.wq) (ou : t.ou = s.ou ++ [⟨id, x, s.waitSetOf x⟩])
    (new : id ∉ s.ou.map (·.id))
    (entries : t.entryRequests
      = s.entryRequests ++ if id.isEntry then [(id, x)] else [])
    (owned : ∀ i, i ≠ id → t.owned i = s.owned i)
    (owner : id.isEntry = false → ∃ u, t.owned id = some u ∧ x = some u)
    (target : ∀ u, x = some u → (s.admission u).enabled = true) (enabled : keepsEnabled s t)
    (held : ∀ w, t.heldWrite? = some w → (t.admission w.target).enabled = true) : OrderWf t := by
  obtain ⟨-, owners, ⟨work, -⟩, older, exact⟩ := wf
  rw [presentMatchesOwners_iff] at owners
  obtain ⟨distinct, listed, present, holds⟩ := owners
  refine ⟨queue, presentMatchesOwners_iff.2 ⟨?_, ?_, ?_, ?_⟩, ⟨?_, held⟩, ?_, ?_⟩
  · rw [ou, List.map_append, List.map_singleton, List.nodup_append]
    exact ⟨distinct, List.nodup_singleton _, fun a ha b hb => by
      rw [List.mem_singleton.1 hb]; rintro rfl; exact new ha⟩
  · rw [ou, entries, List.filter_append, List.map_append, listed]
    congr 1
    cases h : id.isEntry <;> simp [h]
  · intro r hr other
    rw [ou] at hr
    obtain hr | hr := List.mem_append.1 hr
    · rw [owned r.id fun e => new (e ▸ List.mem_map_of_mem hr)]
      exact present r hr other
    · obtain rfl := List.mem_singleton.1 hr
      exact owner other
  · intro i u hu
    rw [ou]
    by_cases same : i = id
    · exact ⟨_, List.mem_append_right _ (List.mem_singleton_self _), same.symm⟩
    · obtain ⟨r, hr, e⟩ := holds i u (owned i same ▸ hu)
      exact ⟨r, List.mem_append_left _ hr, e⟩
  · intro r hr u hu
    rw [ou] at hr
    refine (enabled u ?_).1
    obtain hr | hr := List.mem_append.1 hr
    · exact work r hr u hu
    · obtain rfl := List.mem_singleton.1 hr
      exact target u hu
  · rw [ou]
    refine waitsForOlder_append older fun m hm => ?_
    obtain ⟨y, hy, rfl, -⟩ := mem_waitSetOf.1 hm
    exact List.mem_map_of_mem hy
  · have congr : ∀ y ∈ s.ou, ∀ z, (∀ u, z = some u → (s.admission u).enabled = true) →
        t.waitsFor z y.target = s.waitsFor z y.target := fun y hy z hz =>
      waitsFor_congr (fun u hu => (enabled u (hz u hu)).2)
        fun u hu => (enabled u (work y hy u hu)).2
    unfold waitSetsExact at exact ⊢
    rw [ou, List.pairwise_append]
    refine ⟨exact.imp_of_mem fun hy hx h => ?_, List.pairwise_singleton _ _, fun y hy r hr => ?_⟩
    · rw [congr _ hy _ (work _ hx)]
      exact h
    · obtain rfl := List.mem_singleton.1 hr
      rw [congr y hy x target, mem_waitSetOf]
      constructor
      · rintro ⟨z, hz, same, waits⟩
        rwa [List.inj_on_of_nodup_map distinct hz hy same] at waits
      · exact fun waits => ⟨y, hy, rfl, waits⟩

/-- Requests depart. -/
theorem orderWf_depart {ids : List RequestId} (wf : OrderWf s) (queue : WriteQueueWf t.wq)
    (ou : t.ou = strike ids s.ou)
    (entries : t.entryRequests = s.entryRequests.filter fun p => !ids.contains p.1)
    (owned : ∀ id, t.owned id = if id ∈ ids then none else s.owned id)
    (enabled : keepsEnabled s t)
    (held : ∀ w, t.heldWrite? = some w → (t.admission w.target).enabled = true) : OrderWf t := by
  obtain ⟨-, owners, ⟨work, -⟩, older, exact⟩ := wf
  rw [presentMatchesOwners_iff] at owners
  obtain ⟨distinct, listed, present, holds⟩ := owners
  refine ⟨queue, presentMatchesOwners_iff.2 ⟨?_, ?_, ?_, ?_⟩, ⟨?_, held⟩, ?_, ?_⟩
  · rw [ou, strike, List.map_map]
    exact distinct.sublist ((List.filter_sublist (p := _)).map _)
  · rw [ou, entries, ← listed, strike]
    simp only [List.filter_map, List.map_map, List.filter_filter, Function.comp_def]
    congr 1
    exact List.filter_congr fun r _ => Bool.and_comm _ _
  · intro r hr other
    obtain ⟨q, hq, stays, rfl⟩ := mem_strike.1 (ou ▸ hr)
    rw [owned, if_neg stays]
    exact present q hq other
  · intro id u hu
    rw [owned] at hu
    split at hu
    · cases hu
    · next stays =>
      obtain ⟨r, hr, rfl⟩ := holds id u hu
      exact ⟨{ r with waitSet := r.waitSet.filter fun m => !ids.contains m },
        ou ▸ mem_strike.2 ⟨r, hr, stays, rfl⟩, rfl⟩
  · intro r hr u hu
    obtain ⟨q, hq, -, rfl⟩ := mem_strike.1 (ou ▸ hr)
    exact (enabled u (work q hq u hu)).1
  · rw [ou]
    exact waitsForOlder_strike ids (older := []) older
  · unfold waitSetsExact at exact ⊢
    rw [ou]
    refine strike_pairwise ids (exact.imp_of_mem fun hy hx h stays _ => ?_)
    rw [waitsFor_congr (s := s) (fun u hu => (enabled u (work _ hx u hu)).2)
      fun u hu => (enabled u (work _ hy u hu)).2, ← h]
    simp [stays]

end

/-! ## The updates -/

theorem keepsEnabled_openTarget {s : State} (x : Target) : keepsEnabled s (s.openTarget x) := by
  intro y enabled
  rw [admission_openTarget, live_openTarget]
  refine ⟨?_, rfl⟩
  split
  · rfl
  · exact enabled

theorem entryRequests_remove (q : WriteQueue) (pns : List PN) :
    (q.remove pns).entries.map entryRequest
      = (q.entries.map entryRequest).filter fun p => !(pns.map RequestId.entry).contains p.1 := by
  rw [List.filter_map]
  congr 1
  refine List.filter_congr fun e _ => ?_
  simp only [Function.comp, entryRequest_fst]
  congr 1
  rw [Bool.eq_iff_iff, List.contains_iff_mem, List.contains_iff_mem,
    List.mem_map_of_injective fun a b => RequestId.entry.inj]

theorem held_leaveQueue (pns : List PN) (dropped : Bool) (s : State) :
    (leaveQueue pns dropped s).hif.held = s.hif.held := by
  rw [leaveQueue_hif]
  split
  · rfl
  · rw [queueDeparture_eq]

theorem owned_congr {s t : State} (held : t.hif.held = s.hif.held) (fs : t.fs = s.fs)
    (id : RequestId) : t.owned id = s.owned id := by
  unfold State.owned State.heldRead?
  rw [held, fs]

theorem owned_setSlot (k : SlotNo) (r : FetchSlot) (s : State) (id : RequestId) :
    (setSlot k r s).owned id =
      if id = .fetch k then (if r.state.holdsRequest then some r.target else none)
      else s.owned id := by
  cases id with
  | entry pn => rfl
  | heldRead => rfl
  | fetch j =>
    by_cases same : j = k
    · subst same
      rw [if_pos rfl]
      simp [State.owned]
    · have other : (s.fs.set k r)[j] = s.fs[j] := by
        simp only [Fin.getElem_fin]
        exact Vector.getElem_set_ne _ _ fun e => same (Fin.ext e.symm)
      rw [if_neg (by simpa using same)]
      simp only [State.owned, setSlot_fs, other]

/-- A hold that holds the same target's read, or none as before, leaves what is owned. -/
theorem owned_of_heldRead {s t : State}
    (held : t.heldRead?.map (·.target) = s.heldRead?.map (·.target)) (fs : t.fs = s.fs)
    (id : RequestId) : t.owned id = s.owned id := by
  cases id with
  | entry pn => rfl
  | heldRead => exact held
  | fetch k => simp only [State.owned, fs]

section
variable {s t : State}

theorem heldWrite_enabled (wf : OrderWf s) (keeps : keepsEnabled s t)
    (held : ∀ w, t.heldWrite? = some w →
      s.heldWrite? = some w ∨ (s.admission w.target).enabled = true) (w : HeldWrite)
    (hw : t.heldWrite? = some w) : (t.admission w.target).enabled = true := by
  obtain ⟨-, -, ⟨-, enabled⟩, -, -⟩ := wf
  exact (keeps _ ((held w hw).elim (enabled w) id)).1

/-- The present set stays, and so do the requests of the queue and what the owners hold. -/
theorem orderWf_keep (wf : OrderWf s) (queue : WriteQueueWf t.wq) (ou : t.ou = s.ou)
    (entries : t.entryRequests = s.entryRequests) (owned : ∀ id, t.owned id = s.owned id)
    (keeps : keepsEnabled s t)
    (held : ∀ w, t.heldWrite? = some w →
      s.heldWrite? = some w ∨ (s.admission w.target).enabled = true) : OrderWf t := by
  obtain ⟨-, -, ⟨work, -⟩, -, -⟩ := id wf
  exact orderWf_stay wf queue ou entries owned (fun r hr x hx => keeps x (work r hr x hx))
    (heldWrite_enabled wf keeps held)

end

theorem orderWf_openTarget {s : State} (wf : OrderWf s) (x : Target) : OrderWf (s.openTarget x) :=
  orderWf_keep wf wf.1 rfl rfl (owned_congr rfl rfl) (keepsEnabled_openTarget x) fun _ => .inl

theorem orderWf_setTarget {s : State} {x : Target} {e : TargetEntry} (wf : OrderWf s)
    (keeps : keepsEnabled s (s.setTarget x e)) : OrderWf (s.setTarget x e) :=
  orderWf_keep wf wf.1 rfl rfl (owned_congr rfl rfl) keeps fun _ => .inl

theorem orderWf_updateEntry {s : State} (wf : OrderWf s) (pn : PN) {f : WriteEntry → WriteEntry}
    (hp : ∀ e, (f e).pn = e.pn) (ht : ∀ e, (f e).target = e.target) :
    OrderWf (updateEntry pn f s) :=
  orderWf_keep wf (writeQueueWf_update wf.1 pn hp) rfl (update_requests s.wq pn hp ht)
    (owned_congr rfl rfl) (keepsEnabled_of_targets rfl) fun _ => .inl

theorem orderWf_setSlot {s : State} {k : SlotNo} {r : FetchSlot} (wf : OrderWf s)
    (same : (if r.state.holdsRequest then some r.target else none) = s.owned (.fetch k)) :
    OrderWf (setSlot k r s) := by
  refine orderWf_keep wf wf.1 rfl rfl (fun id => ?_) (keepsEnabled_of_targets rfl) fun _ => .inl
  rw [owned_setSlot]
  split
  · next h => rw [same, h]
  · rfl

theorem heldRead_of_none {s : State} (h : s.hif.held = none) : s.heldRead? = none := by
  unfold State.heldRead?
  rw [h]

/-- The end of the hold of a write, of which no request is present. -/
theorem orderWf_endHold {s : State} (wf : OrderWf s) (none : s.heldRead? = none) :
    OrderWf (endHold s) :=
  orderWf_keep wf wf.1 rfl rfl (owned_of_heldRead (by rw [none]; rfl) rfl)
    (keepsEnabled_of_targets rfl) nofun

theorem orderWf_setHeldRead {s : State} {r q : HeldRead} (wf : OrderWf s)
    (held : s.heldRead? = some r) (same : q.target = r.target) : OrderWf (setHeldRead q s) :=
  orderWf_keep wf wf.1 rfl rfl
    (owned_of_heldRead (by rw [held]; exact congrArg some same) rfl)
    (keepsEnabled_of_targets rfl) nofun

theorem orderWf_leaveQueue {s : State} (pns : List PN) (dropped : Bool) (wf : OrderWf s) :
    OrderWf (leaveQueue pns dropped s) := by
  have heldSame := held_leaveQueue pns dropped s
  have keeps : keepsEnabled s (leaveQueue pns dropped s) := keepsEnabled_of_targets rfl
  refine orderWf_depart (ids := pns.map .entry) wf (writeQueueWf_remove wf.1 pns) rfl
    (entryRequests_remove s.wq pns) (fun id => ?_) keeps (heldWrite_enabled wf keeps fun w hw => ?_)
  · rw [owned_congr heldSame rfl]
    split
    · next gone => obtain ⟨pn, -, rfl⟩ := List.mem_map.1 gone; rfl
    · rfl
  · exact .inl (heldWrite_eq_some_iff.2 (heldSame ▸ heldWrite_eq_some_iff.1 hw))

theorem entryRequests_of_other {s : State} (ids : List RequestId)
    (others : ∀ id ∈ ids, id.isEntry = false) :
    s.entryRequests = s.entryRequests.filter fun p => !ids.contains p.1 := by
  refine (List.filter_eq_self.2 fun p hp => ?_).symm
  obtain ⟨e, -, rfl⟩ := List.mem_map.1 hp
  rw [entryRequest_fst, Bool.not_eq_true', List.contains_eq_mem, decide_eq_false_iff_not]
  exact fun mem => Bool.noConfusion (others _ mem)

theorem orderWf_dropHeldRead {s : State} (wf : OrderWf s) : OrderWf (dropHeldRead s) := by
  refine orderWf_depart (ids := [.heldRead]) wf wf.1 rfl
    (entryRequests_of_other _ (by simp [RequestId.isEntry])) (fun id => ?_)
    (keepsEnabled_of_targets rfl) nofun
  cases id with
  | heldRead => rfl
  | entry pn => exact (if_neg (by simp)).symm
  | fetch k => exact (if_neg (by simp)).symm

theorem orderWf_dropFetch {s : State} {k : SlotNo} {r : FetchSlot} (wf : OrderWf s)
    (idle : r.state.holdsRequest = false) : OrderWf (depart [.fetch k] (setSlot k r s)) := by
  have keeps : keepsEnabled s (depart [.fetch k] (setSlot k r s)) := keepsEnabled_of_targets rfl
  refine orderWf_depart (ids := [.fetch k]) wf wf.1 rfl
    (entryRequests_of_other _ (by simp [RequestId.isEntry])) (fun id => ?_) keeps
    (heldWrite_enabled wf keeps fun _ => .inl)
  refine (owned_setSlot k r s id).trans ?_
  simp [idle]

/-- A write is entered behind the others, its posting number new. -/
theorem orderWf_push {s t : State} {e : QueueEntry} {x : Option Target} (wf : OrderWf s)
    (room : s.wq.room = true) (request : entryRequest e = (.entry s.wq.nextPn, x))
    (wq : t.wq = s.wq.push e) (ou : t.ou = s.ou ++ [⟨.entry s.wq.nextPn, x, s.waitSetOf x⟩])
    (held : t.hif.held = s.hif.held) (fs : t.fs = s.fs) (targets : t.targets = s.targets)
    (enabled : ∀ u, x = some u → (s.admission u).enabled = true) : OrderWf t := by
  obtain ⟨queue, owners, -⟩ := id wf
  have pn : e.pn = s.wq.nextPn := by
    have := entryRequest_fst e
    rw [request] at this
    exact (RequestId.entry.inj this).symm
  have new : .entry s.wq.nextPn ∉ s.ou.map (·.id) := by
    intro mem
    obtain ⟨r, hr, hid⟩ := List.mem_map.1 mem
    obtain ⟨y, hy, request⟩ := mem_entryRequests.1 ((entry_mem_iff owners).1 ⟨r, hr, hid, rfl⟩)
    have := entryRequest_fst y
    rw [request] at this
    exact (room_iff.1 room).2 y hy (RequestId.entry.inj this).symm
  refine orderWf_arrive wf (wq ▸ writeQueueWf_push queue room pn) ou new ?_
    (fun i _ => owned_congr held fs i) nofun enabled (keepsEnabled_of_targets targets)
    (heldWrite_enabled wf (keepsEnabled_of_targets targets) fun w hw => .inl ?_)
  · unfold State.entryRequests
    rw [wq, WriteQueue.push, List.map_append, List.map_singleton, request]
    rfl
  · exact heldWrite_eq_some_iff.2 (held ▸ heldWrite_eq_some_iff.1 hw)

theorem orderWf_empty {s : State} (queue : WriteQueueWf s.wq) (entries : s.wq.entries = [])
    (ou : s.ou = []) (owned : ∀ id, s.owned id = none) (held : s.heldWrite? = none) :
    OrderWf s := by
  refine ⟨queue, presentMatchesOwners_iff.2 ⟨?_, ?_, ?_, ?_⟩, ⟨?_, ?_⟩, ?_, ?_⟩
  · rw [ou]; exact List.nodup_nil
  · rw [ou, State.entryRequests, entries]; rfl
  · rw [ou]; exact nofun
  · intro id t h
    rw [owned] at h
    cases h
  · rw [ou]; exact nofun
  · rw [held]; exact nofun
  · rw [ou]; trivial
  · rw [waitSetsExact, ou]; exact .nil

theorem heldRead_of_heldWrite {s : State} {w : HeldWrite} (h : s.heldWrite? = some w) :
    s.heldRead? = none := by
  unfold State.heldRead?
  rw [heldWrite_eq_some_iff.1 h]

/-- No request of an idle target is present. -/
theorem target_ne_of_idle {s : State} {x : Target} (owners : presentMatchesOwners s)
    (idle : s.busyWith? x = none) {r : PresentRequest} (hr : r ∈ s.ou) : r.target ≠ some x := by
  intro target
  obtain ⟨-, noCycle, noWrite, noFetch, -⟩ := busyWith_eq_none.1 idle
  obtain ⟨-, -, present, -⟩ := presentMatchesOwners_iff.1 owners
  have owned : r.id.isEntry = false → s.owned r.id = some x := by
    intro other
    obtain ⟨t, owned, same⟩ := present r hr other
    rwa [← Option.some.inj (target.symm.trans same)] at owned
  cases id : r.id with
  | entry pn =>
    obtain ⟨e, he, request⟩ := mem_entryRequests.1 ((entry_mem_iff owners).1 ⟨r, hr, id, target⟩)
    cases e with
    | fence f => cases request
    | write e =>
      obtain ⟨-, target⟩ := Prod.mk.inj request
      have isWrite := List.any_eq_false.1 noWrite _ he
      exact isWrite (beq_iff_eq.2 (Option.some.inj target))
  | heldRead =>
    rw [id] at owned
    obtain ⟨h, held, target⟩ := Option.map_eq_some_iff.1 (owned rfl)
    exact Bool.noConfusion ((holdsCycleOf_iff.2 (.inr ⟨h, held, target⟩)).symm.trans noCycle)
  | fetch k =>
    rw [id] at owned
    obtain ⟨holds, target⟩ : s.fs[k].state.holdsRequest = true ∧ s.fs[k].target = x := by
      simpa [State.owned] using owned rfl
    have slot := List.any_eq_false.1 noFetch s.fs[k] (by simp)
    exact slot (by rw [holds, target]; simp)

theorem Update.keeps_order {s t : State} (h : Update s t) (wf : OrderWf s) : OrderWf t := by
  obtain ⟨queue, owners, ⟨work, held⟩, older, exact⟩ := id wf
  cases h
  case stage x f =>
    exact orderWf_setTarget wf fun y enabled => by
      rw [← Machine.stage, admission_stage, live_stage]; exact ⟨enabled, rfl⟩
  case enable x disabled _ =>
    refine orderWf_setTarget wf fun y enabled => ?_
    have other : y ≠ x := by rintro rfl; rw [disabled] at enabled; cases enabled
    rw [admission_setTarget, live_setTarget, if_neg other, if_neg other]
    exact ⟨enabled, rfl⟩
  case disable x idle =>
    have others : ∀ y, y ≠ x → (s.admission y).enabled = true →
        ((s.setAdmission x .disabled).admission y).enabled = true
          ∧ (s.setAdmission x .disabled).live y = s.live y := by
      intro y ne enabled
      rw [admission_setAdmission, if_neg ne, live_setAdmission]
      exact ⟨enabled, rfl⟩
    refine orderWf_stay wf queue rfl rfl (owned_congr rfl rfl) (fun r hr y hy => ?_) fun w hw => ?_
    · refine others y ?_ (work r hr y hy)
      rintro rfl
      exact target_ne_of_idle owners idle hr hy
    · refine (others _ ?_ (held w hw)).1
      rintro rfl
      exact Bool.noConfusion ((holdsCycleOf_iff.2 (.inl ⟨w, hw, rfl⟩)).symm.trans
        (busyWith_eq_none.1 idle).2.1)
  case resumeFailed x pn _ _ _ _ =>
    exact orderWf_updateEntry (orderWf_openTarget wf x) pn (fun _ => rfl) fun _ => rfl
  case resume x _ _ _ => exact orderWf_openTarget wf x
  case skip x pn _ _ _ _ => exact orderWf_leaveQueue [pn] true (orderWf_openTarget wf x)
  case discard x _ _ => exact orderWf_leaveQueue _ true (orderWf_openTarget wf x)
  case retire f _ =>
    exact orderWf_leaveQueue [f.pn] false (s := { s with wq := { s.wq with lastFenceRetired := f.pn } }) wf
  case fence notify room =>
    exact orderWf_push wf room rfl rfl rfl rfl rfl rfl nofun
  case merge => exact orderWf_updateEntry wf _ (fun _ => rfl) fun _ => rfl
  case enter w opened room =>
    refine orderWf_push wf room rfl rfl rfl rfl rfl rfl fun u hu => ?_
    obtain rfl := Option.some.inj hu
    rw [opened]
    rfl
  case enterHeld w hw room =>
    refine orderWf_push (orderWf_endHold wf (heldRead_of_heldWrite hw)) room rfl rfl rfl rfl rfl rfl
      fun u hu => ?_
    obtain rfl := Option.some.inj hu
    exact held w hw
  case holdWrite w none opened =>
    refine orderWf_keep wf queue rfl rfl (owned_of_heldRead ?_ rfl) (keepsEnabled_of_targets rfl)
      fun v hv => .inr ?_
    · rw [heldRead_of_none none]; rfl
    · obtain rfl : w = v := Option.some.inj hv
      rw [opened]
      rfl
  case dropWrite w hw => exact orderWf_endHold wf (heldRead_of_heldWrite hw)
  case holdRead x offset lanes none opened =>
    refine orderWf_arrive (id := .heldRead) (x := some x) wf queue rfl
      (absent_of_not_owned owners rfl ?_) (List.append_nil _).symm (fun i hi => ?_)
      (fun _ => ⟨x, rfl, rfl⟩) (fun u hu => ?_) (keepsEnabled_of_targets rfl) nofun
    · rw [State.owned, heldRead_of_none none]; rfl
    · cases i with
      | heldRead => exact absurd rfl hi
      | entry pn => rfl
      | fetch k => rfl
    · obtain rfl := Option.some.inj hu
      rw [opened]
      rfl
  case dropRead => exact orderWf_dropHeldRead wf
  case endCycle r _ hr =>
    have ended := orderWf_setHeldRead (q := { r with cycle := .ended }) wf hr rfl
    exact ended
  case slotMarks k r state target =>
    exact orderWf_setSlot wf (by rw [state, target]; rfl)
  case slotIdle k r before after =>
    exact orderWf_setSlot wf (by rw [State.owned, before, after]; rfl)
  case fetch k r waiting free opened =>
    have keeps : keepsEnabled s (arriveRequest (.fetch k) (some r.target) (setSlot k r s)) :=
      keepsEnabled_of_targets rfl
    have slot : ∀ i, (arriveRequest (.fetch k) (some r.target) (setSlot k r s)).owned i
        = (setSlot k r s).owned i := owned_congr rfl rfl
    refine orderWf_arrive (id := .fetch k) (x := some r.target) wf queue rfl
      (absent_of_not_owned owners rfl ?_) (List.append_nil _).symm (fun i hi => ?_)
      (fun _ => ⟨r.target, ?_, rfl⟩) (fun u hu => ?_) keeps (heldWrite_enabled wf keeps fun _ => .inl)
    · rw [State.owned, free]; rfl
    · rw [slot, owned_setSlot, if_neg hi]
    · rw [slot, owned_setSlot, if_pos rfl, waiting]; rfl
    · obtain rfl := Option.some.inj hu
      rw [opened]
      rfl
  case cancel k issued => exact orderWf_setSlot wf (by rw [State.owned, issued]; rfl)
  case dropFetch k r idle _ => exact orderWf_dropFetch wf idle
  case grant r _ winner =>
    obtain ⟨_, _, _, -, -, -, -, -, e, ⟨pn, _, -, -, rfl⟩ | ⟨q, -, hq, -, rfl⟩ | ⟨k, -, hk, rfl⟩⟩ :=
      grant_cases (winner_mem winner).2 <;> rw [e]
    · exact orderWf_updateEntry wf pn (fun _ => rfl) fun _ => rfl
    · have issued := orderWf_setHeldRead (q := { q with phase := .issued }) wf hq rfl
      exact issued
    · exact orderWf_setSlot (r := { s.fs[k] with state := .issued }) wf (by rw [State.owned, hk]; rfl)
  case clear =>
    refine orderWf_empty (EntriesOp.empty.keeps queue) rfl rfl (fun id => ?_) rfl
    cases id with
    | heldRead => rfl
    | entry pn => rfl
    | fetch k => simp [State.owned, clearEverything, FetchSlot.powerOn, SlotState.holdsRequest]
  case reset =>
    refine orderWf_empty (EntriesOp.reset.keeps queue) rfl rfl (fun id => ?_) rfl
    cases id with
    | heldRead => rfl
    | entry pn => rfl
    | fetch k => simp [State.owned, State.reset, FetchSlot.powerOn, SlotState.holdsRequest]
  case attention x _ =>
    obtain e | ⟨r, -, e⟩ | ⟨-, e⟩ := takeAttention_cases x s <;> rw [e] <;> exact wf
  case release x =>
    obtain ⟨au, e⟩ := releaseAttention_frame x s
    rw [e]
    exact wf
  all_goals exact wf

theorem EndEffect.keeps_order {s t : State} (h : EndEffect s t) (wf : OrderWf s) : OrderWf t := by
  cases h
  case count a => unfold countWatches; split <;> exact wf
  case changeEntry pn f names targets => exact orderWf_updateEntry wf pn names targets
  case leave pn => exact orderWf_leaveQueue [pn] false wf
  case dropRead => exact orderWf_dropHeldRead wf
  case readWaits r a _ held =>
    have waits := orderWf_setHeldRead (q := r.lowTaken a) wf held rfl
    exact waits
  case fetchWaits k a issued => exact orderWf_setSlot wf (by rw [State.owned, issued]; rfl)
  case fetchEnds k r idle _ => exact orderWf_dropFetch wf idle
  case halt x fault opened _ =>
    refine orderWf_setTarget wf fun y enabled => ?_
    rw [← State.setAdmission, admission_setAdmission, live_setAdmission]
    refine ⟨?_, rfl⟩
    split
    · rfl
    · exact enabled
  all_goals exact wf

/-- Settles O59: a request that stays, arrives or departs leaves the present set and the wait-sets as
the owners and R43 have them. -/
theorem stepKeepsOrderWf : Obligations.StepKeepsOrderWf := by
  unfold Obligations.StepKeepsOrderWf
  exact fun s t wf h =>
    step_keeps (fun _ _ => Update.keeps_order) (fun _ _ => EndEffect.keeps_order) h wf

end Sys2Proof.Machine
end

section
/-! The owners of the access in flight and of the fault records: what every update leaves of them
(R52, R60, R104, R105). -/

namespace Sys2Proof.Machine

/-! ## Write entries by membership -/

theorem mem_update {q : WriteQueue} {pn : PN} {f : WriteEntry → WriteEntry} {e : WriteEntry} :
    .write e ∈ (q.update pn f).entries ↔
      ∃ x, .write x ∈ q.entries ∧ e = if x.pn = pn then f x else x := by
  rw [WriteQueue.update, List.mem_map]
  constructor
  · rintro ⟨x, hx, same⟩
    cases x with
    | fence g => cases same
    | write x =>
      refine ⟨x, hx, ?_⟩
      dsimp only at same
      split at same <;> rename_i h
      · rw [if_pos h]; exact (QueueEntry.write.inj same).symm
      · rw [if_neg h]; exact (QueueEntry.write.inj same).symm
  · rintro ⟨x, hx, rfl⟩
    refine ⟨.write x, hx, ?_⟩
    dsimp only
    split <;> rfl

theorem mem_remove {q : WriteQueue} {pns : List PN} {e : QueueEntry} :
    e ∈ (q.remove pns).entries ↔ e ∈ q.entries ∧ e.pn ∉ pns := by
  simp [WriteQueue.remove]

theorem write_ext {q : WriteQueue} (wf : WriteQueueWf q) {e x : WriteEntry}
    (he : .write e ∈ q.entries) (hx : .write x ∈ q.entries) (same : e.pn = x.pn) : e = x := by
  obtain ⟨-, distinct, -, -⟩ := wf
  exact QueueEntry.write.inj (List.inj_on_of_nodup_map distinct he hx same)

/-- The requests of write entries are present with their targets. -/
theorem write_of_present {s : State} (wf : OrderWf s) {r : PresentRequest} {pn : PN} {t : Target}
    (hr : r ∈ s.ou) (id : r.id = .entry pn) (target : r.target = some t) :
    ∃ e, .write e ∈ s.wq.entries ∧ e.pn = pn ∧ e.target = t := by
  obtain ⟨-, owners, -, -, -⟩ := wf
  obtain ⟨e, he, request⟩ := mem_entryRequests.1 ((entry_mem_iff owners).1 ⟨r, hr, id, target⟩)
  cases e with
  | fence f => cases request
  | write e =>
    obtain ⟨name, target⟩ := Prod.mk.inj request
    exact ⟨e, he, RequestId.entry.inj name, Option.some.inj target⟩

/-! ## The requests shown Issued -/

/-- An entry is shown Issued exactly where the queue holds it so. -/
theorem shownIssued_entry {s : State} (wf : WriteQueueWf s.wq) {pn : PN} :
    shownIssued s (.entry pn) ↔
      ∃ e, .write e ∈ s.wq.entries ∧ e.pn = pn ∧ e.progress = .issued := by
  simp only [shownIssued, find_eq_some_iff wf, and_assoc]

theorem shownIssued_heldRead_iff {s : State} :
    shownIssued s .heldRead ↔ ∃ r, s.hif.held = some (.read r) ∧ r.phase = .issued := by
  simp only [shownIssued, heldRead_eq_some_iff]

/-- The requests shown Issued in the second state were so in the first. -/
def issuesNone (s t : State) : Prop := ∀ id, shownIssued t id → shownIssued s id

theorem issuesNone_refl (s : State) : issuesNone s s := fun _ h => h

theorem issuesNone_update {s : State} (wf : WriteQueueWf s.wq) (pn : PN)
    {f : WriteEntry → WriteEntry} (same : ∀ e, (f e).pn = e.pn)
    (waits : ∀ e, (f e).progress = .issued → e.progress = .issued) :
    issuesNone s (updateEntry pn f s) := by
  intro id shown
  cases id with
  | entry p =>
    obtain ⟨e, he, rfl, issued⟩ := (shownIssued_entry (writeQueueWf_update wf pn same)).1 shown
    obtain ⟨x, hx, rfl⟩ := mem_update.1 he
    refine (shownIssued_entry wf).2 ⟨x, hx, ?_⟩
    split at issued
    · next h => rw [if_pos h]; exact ⟨(same x).symm, waits x issued⟩
    · next h => rw [if_neg h]; exact ⟨rfl, issued⟩
  | heldRead => exact shown
  | fetch k => exact shown

theorem shownIssued_leaveQueue {s : State} (wf : WriteQueueWf s.wq) (pns : List PN) (dropped : Bool)
    (id : RequestId) : shownIssued (leaveQueue pns dropped s) id ↔
      shownIssued s id ∧ ∀ pn ∈ pns, id ≠ .entry pn := by
  cases id with
  | entry pn =>
    rw [shownIssued_entry wf, shownIssued_entry (writeQueueWf_remove wf pns)]
    simp only [leaveQueue_wq, mem_remove]
    constructor
    · rintro ⟨e, ⟨he, stays⟩, rfl, issued⟩
      exact ⟨⟨e, he, rfl, issued⟩, fun pn hpn same => stays ((RequestId.entry.inj same).symm ▸ hpn : e.pn ∈ pns)⟩
    · rintro ⟨⟨e, he, rfl, issued⟩, stays⟩
      exact ⟨e, ⟨he, fun gone => stays _ gone rfl⟩, rfl, issued⟩
  | heldRead =>
    rw [shownIssued_heldRead_iff, shownIssued_heldRead_iff, held_leaveQueue]
    simp
  | fetch k => exact (and_iff_left fun _ _ => nofun).symm

theorem shownIssued_setSlot (k : SlotNo) (r : FetchSlot) (s : State) (id : RequestId) :
    shownIssued (setSlot k r s) id ↔
      if id = .fetch k then r.state = .issued ∨ r.state = .cancelling else shownIssued s id := by
  cases id with
  | entry pn => exact Iff.rfl
  | heldRead => exact Iff.rfl
  | fetch j =>
    by_cases same : j = k
    · subst same
      rw [if_pos rfl]
      simp [shownIssued]
    · have other : (s.fs.set k r)[j] = s.fs[j] := by
        simp only [Fin.getElem_fin]
        exact Vector.getElem_set_ne _ _ fun e => same (Fin.ext e.symm)
      rw [if_neg (by simpa using same)]
      simp only [shownIssued, setSlot_fs, other]

/-- A slot whose record is not Issued shows nothing. -/
theorem issuesNone_setSlot {k : SlotNo} {r : FetchSlot} (s : State)
    (idle : r.state ≠ .issued ∧ r.state ≠ .cancelling) : issuesNone s (setSlot k r s) := by
  intro id shown
  rw [shownIssued_setSlot] at shown
  split at shown
  · exact absurd shown (by simp [idle])
  · exact shown

/-- A hold that is of no Issued read shows nothing. -/
theorem issuesNone_hold {s t : State} (wq : t.wq = s.wq) (fs : t.fs = s.fs)
    (held : ∀ r, t.hif.held = some (.read r) → r.phase ≠ .issued) : issuesNone s t := by
  intro id shown
  cases id with
  | entry pn => simpa only [shownIssued, wq] using shown
  | heldRead =>
    obtain ⟨r, hr, issued⟩ := shownIssued_heldRead_iff.1 shown
    exact absurd issued (held r hr)
  | fetch k => simpa only [shownIssued, fs] using shown

theorem issuesNone_push {s t : State} (wf : WriteQueueWf s.wq) (after : WriteQueueWf t.wq)
    {x : QueueEntry} (wq : t.wq = s.wq.push x)
    (new : ∀ e, x = .write e → e.progress ≠ .issued) (held : t.heldRead? = s.heldRead?)
    (fs : t.fs = s.fs) : issuesNone s t := by
  intro id shown
  cases id with
  | entry pn =>
    obtain ⟨e, he, rfl, issued⟩ := (shownIssued_entry after).1 shown
    rw [wq] at he
    obtain he | he := List.mem_append.1 he
    · exact (shownIssued_entry wf).2 ⟨e, he, rfl, issued⟩
    · exact absurd issued (new e (List.mem_singleton.1 he).symm)
  | heldRead => simpa only [shownIssued, held] using shown
  | fetch k => simpa only [shownIssued, fs] using shown

/-! ## Updates that leave the access in flight with its owner -/

/-- The access in flight and its owner stay, and no further request is shown Issued. -/
structure Calm (s t : State) : Prop where
  access : t.dbe.access = s.dbe.access
  issues : issuesNone s t
  still : ∀ a, s.dbe.access = some a → shownIssued s a.request → shownIssued t a.request
  present : ∀ a, s.dbe.access = some a → ∀ r ∈ s.ou, r.id = a.request → shownIssued s a.request →
    r.target = some a.target → ∃ q ∈ t.ou, q.id = a.request ∧ q.target = some a.target
  clearing : s.bc.state = .clearing → t.bc.state = .clearing

theorem Calm.refl (s : State) : Calm s s :=
  ⟨rfl, issuesNone_refl s, fun _ _ h => h, fun _ _ r hr id _ target => ⟨r, hr, id, target⟩, id⟩

theorem accessHasOwner_of_calm {s t : State} (calm : Calm s t) (h : accessHasOwner s) :
    accessHasOwner t := by
  obtain ⟨access, issues, still, present, clearing⟩ := calm
  obtain ⟨owner, only⟩ := h
  refine ⟨fun a ha => ?_, fun id shown => ?_⟩
  · rw [access] at ha
    obtain ⟨⟨r, hr, id, target⟩, shown, result⟩ := owner a ha
    exact ⟨present a ha r hr id shown target, still a ha shown, result⟩
  · rw [access]
    exact (only id (issues id shown)).imp_left clearing

/-- The requests shown Issued and the present set stay. -/
theorem calm_of_shown {s t : State} (access : t.dbe.access = s.dbe.access)
    (shown : ∀ id, shownIssued t id ↔ shownIssued s id) (ou : t.ou = s.ou)
    (clearing : s.bc.state = .clearing → t.bc.state = .clearing) : Calm s t :=
  ⟨access, fun id => (shown id).1, fun _ _ => (shown _).2,
    fun _ _ r hr id _ target => ⟨r, ou ▸ hr, id, target⟩, clearing⟩

theorem calm_of_same {s t : State} (access : t.dbe.access = s.dbe.access)
    (entries : t.wq.entries = s.wq.entries) (held : t.heldRead? = s.heldRead?) (fs : t.fs = s.fs)
    (ou : t.ou = s.ou) (clearing : s.bc.state = .clearing → t.bc.state = .clearing) : Calm s t :=
  calm_of_shown access (fun id => by cases id <;> simp only [shownIssued, WriteQueue.find, entries, held, fs])
    ou clearing

/-- A slot's record changes, shown Issued or not as before. -/
theorem shownIssued_setSlot_iff {k : SlotNo} {r : FetchSlot} {s : State}
    (same : (r.state = .issued ∨ r.state = .cancelling) ↔ shownIssued s (.fetch k)) (id : RequestId) :
    shownIssued (setSlot k r s) id ↔ shownIssued s id := by
  rw [shownIssued_setSlot]
  split
  · next h => rw [h]; exact same
  · exact Iff.rfl

theorem calm_leaveQueue {s : State} (wf : WriteQueueWf s.wq) {pns : List PN} (dropped : Bool)
    (others : ∀ a, s.dbe.access = some a → ∀ pn ∈ pns, a.request ≠ .entry pn) :
    Calm s (leaveQueue pns dropped s) where
  access := rfl
  issues id shown := ((shownIssued_leaveQueue wf pns dropped id).1 shown).1
  still a access shown := (shownIssued_leaveQueue wf pns dropped _).2 ⟨shown, others a access⟩
  present a access r hr id _ target := by
    refine ⟨_, mem_strike.2 ⟨r, hr, fun gone => ?_, rfl⟩, id, target⟩
    obtain ⟨pn, hpn, same⟩ := List.mem_map.1 gone
    exact others a access pn hpn (id.symm.trans same.symm)
  clearing := id

theorem calm_updateEntry {s : State} (wf : WriteQueueWf s.wq) (pn : PN)
    {f : WriteEntry → WriteEntry} (same : ∀ e, (f e).pn = e.pn)
    (progress : ∀ e, (f e).progress = e.progress) : Calm s (updateEntry pn f s) where
  access := rfl
  issues := issuesNone_update wf pn same fun e => by rw [progress]; exact id
  still a _ shown := by
    generalize a.request = id at shown
    cases id with
    | entry p =>
      obtain ⟨e, he, rfl, issued⟩ := (shownIssued_entry wf).1 shown
      refine (shownIssued_entry (writeQueueWf_update wf pn same)).2 ⟨_, mem_update.2 ⟨e, he, rfl⟩, ?_⟩
      split
      · exact ⟨same e, (progress e).trans issued⟩
      · exact ⟨rfl, issued⟩
    | heldRead => exact shown
    | fetch k => exact shown
  present _ _ r hr id _ target := ⟨r, hr, id, target⟩
  clearing := id

/-- A request that is not shown Issued, and is none of the queue's, departs. -/
theorem calm_depart {s t : State} {id : RequestId} (access : t.dbe.access = s.dbe.access)
    (others : ∀ i, i ≠ id → (shownIssued t i ↔ shownIssued s i))
    (before : ¬ shownIssued s id) (after : ¬ shownIssued t id) (ou : t.ou = strike [id] s.ou)
    (clearing : s.bc.state = .clearing → t.bc.state = .clearing) : Calm s t where
  access := access
  issues i shown := by
    by_cases same : i = id
    · exact absurd (same ▸ shown) after
    · exact (others i same).1 shown
  still a _ shown := (others _ fun same => before (same ▸ shown)).2 shown
  present a _ r hr name shown target := by
    rw [ou]
    refine ⟨_, mem_strike.2 ⟨r, hr, ?_, rfl⟩, name, target⟩
    rw [name, List.mem_singleton]
    exact fun same => before (same ▸ shown)
  clearing := clearing

/-- A request arrives, of an owner that does not show it Issued. -/
theorem calm_arrive {s t : State} (access : t.dbe.access = s.dbe.access) (issues : issuesNone s t)
    (still : ∀ id, shownIssued s id → shownIssued t id) {new : List PresentRequest}
    (ou : t.ou = s.ou ++ new) (clearing : s.bc.state = .clearing → t.bc.state = .clearing) :
    Calm s t where
  access := access
  issues := issues
  still _ _ := still _
  present _ _ r hr id _ target := ⟨r, ou ▸ List.mem_append_left _ hr, id, target⟩
  clearing := clearing

theorem calm_push {s t : State} (wf : WriteQueueWf s.wq) (after : WriteQueueWf t.wq)
    {x : QueueEntry} (access : t.dbe.access = s.dbe.access) (wq : t.wq = s.wq.push x)
    (new : ∀ e, x = .write e → e.progress ≠ .issued) (held : t.heldRead? = s.heldRead?)
    (fs : t.fs = s.fs) {request : PresentRequest} (ou : t.ou = s.ou ++ [request])
    (clearing : s.bc.state = .clearing → t.bc.state = .clearing) : Calm s t := by
  refine calm_arrive access (issuesNone_push wf after wq new held fs) (fun id shown => ?_) ou clearing
  cases id with
  | entry pn =>
    obtain ⟨e, he, rfl, issued⟩ := (shownIssued_entry wf).1 shown
    exact (shownIssued_entry after).2 ⟨e, wq ▸ List.mem_append_left _ he, rfl, issued⟩
  | heldRead => simpa only [shownIssued, held] using shown
  | fetch k => simpa only [shownIssued, fs] using shown

end Sys2Proof.Machine
end

section
/-! The owners of the access in flight and of the fault records are kept by every update (R52, R60,
R104, R105). -/

namespace Sys2Proof.Machine

/-! ## Failed entries and fault records -/

/-- Each Write Timeout `halts` names an entry of the queue that `fails`, and the other way round
(R104, R105). -/
def matchFaults (fails : WriteEntry → Prop) (halts : Target → FaultRecord → Prop)
    (q : WriteQueue) : Prop :=
  (∀ t pn offset lanes data, halts t (.writeTimeout pn offset lanes data) →
      ∃ e, .write e ∈ q.entries ∧ e.pn = pn ∧ e.target = t ∧ fails e)
    ∧ ∀ e, .write e ∈ q.entries → fails e →
        ∃ offset lanes data, halts e.target (.writeTimeout e.pn offset lanes data)

theorem failedMatchesFaults_iff {s : State} (wf : WriteQueueWf s.wq) : failedMatchesFaults s ↔
    matchFaults (fun e => e.failed = true) (fun t fault => s.admission t = .halted fault) s.wq := by
  simp only [failedMatchesFaults, matchFaults, find_eq_some_iff wf, and_assoc]

/-- The failing entries of the second queue are, by name and target, those of the first. -/
def sameFailing (fails fails' : WriteEntry → Prop) (q q' : WriteQueue) : Prop :=
  (∀ e, .write e ∈ q.entries → fails e →
      ∃ x, .write x ∈ q'.entries ∧ x.pn = e.pn ∧ x.target = e.target ∧ fails' x)
    ∧ ∀ e, .write e ∈ q'.entries → fails' e →
        ∃ x, .write x ∈ q.entries ∧ x.pn = e.pn ∧ x.target = e.target ∧ fails x

theorem matchFaults_of {fails fails' : WriteEntry → Prop} {halts halts' : Target → FaultRecord → Prop}
    {q q' : WriteQueue} (h : matchFaults fails halts q) (same : sameFailing fails fails' q q')
    (record : ∀ t pn offset lanes data, halts' t (.writeTimeout pn offset lanes data) ↔
      halts t (.writeTimeout pn offset lanes data)) : matchFaults fails' halts' q' := by
  obtain ⟨recorded, failed⟩ := h
  obtain ⟨kept, new⟩ := same
  refine ⟨fun t pn offset lanes data halted => ?_, fun e he fails => ?_⟩
  · obtain ⟨e, he, rfl, rfl, fails⟩ := recorded t pn offset lanes data ((record ..).1 halted)
    exact kept e he fails
  · obtain ⟨x, hx, name, target, fails⟩ := new e he fails
    obtain ⟨offset, lanes, data, halted⟩ := failed x hx fails
    exact ⟨offset, lanes, data, (record ..).2 (name ▸ target ▸ halted)⟩

section
variable {fails fails' : WriteEntry → Prop}

theorem sameFailing_of_mem {q q' : WriteQueue}
    (h : ∀ e, .write e ∈ q.entries → fails e → .write e ∈ q'.entries ∧ fails' e)
    (h' : ∀ e, .write e ∈ q'.entries → fails' e → .write e ∈ q.entries ∧ fails e) :
    sameFailing fails fails' q q' :=
  ⟨fun e he fails => ⟨e, (h e he fails).1, rfl, rfl, (h e he fails).2⟩,
    fun e he fails => ⟨e, (h' e he fails).1, rfl, rfl, (h' e he fails).2⟩⟩

theorem sameFailing_update {q : WriteQueue} {pn : PN} {f : WriteEntry → WriteEntry}
    (hp : ∀ e, (f e).pn = e.pn) (ht : ∀ e, (f e).target = e.target)
    (changed : ∀ e, .write e ∈ q.entries → e.pn = pn → (fails' (f e) ↔ fails e))
    (others : ∀ e, .write e ∈ q.entries → e.pn ≠ pn → (fails' e ↔ fails e)) :
    sameFailing fails fails' q (q.update pn f) := by
  constructor
  · intro e he fails
    by_cases h : e.pn = pn
    · exact ⟨f e, mem_update.2 ⟨e, he, (if_pos h).symm⟩, hp e, ht e, (changed e he h).2 fails⟩
    · exact ⟨e, mem_update.2 ⟨e, he, (if_neg h).symm⟩, rfl, rfl, (others e he h).2 fails⟩
  · intro e he fails
    obtain ⟨x, hx, rfl⟩ := mem_update.1 he
    split at fails
    · next h => rw [if_pos h]; exact ⟨x, hx, (hp x).symm, (ht x).symm, (changed x hx h).1 fails⟩
    · next h => rw [if_neg h]; exact ⟨x, hx, rfl, rfl, (others x hx h).1 fails⟩

theorem sameFailing_push {q : WriteQueue} {x : QueueEntry} (new : ∀ e, x = .write e → ¬ fails e) :
    sameFailing fails fails q (q.push x) := by
  refine sameFailing_of_mem (fun e he fails => ⟨List.mem_append_left _ he, fails⟩)
    fun e he fails => ?_
  obtain he | he := List.mem_append.1 he
  · exact ⟨he, fails⟩
  · exact absurd fails (new e (List.mem_singleton.1 he).symm)

theorem sameFailing_remove {q : WriteQueue} {pns : List PN}
    (stays : ∀ e, .write e ∈ q.entries → fails e → e.pn ∉ pns) :
    sameFailing fails fails q (q.remove pns) :=
  sameFailing_of_mem (fun e he fails => ⟨mem_remove.2 ⟨he, stays e he fails⟩, fails⟩)
    fun _ he fails => ⟨(mem_remove.1 he).1, fails⟩

end

section
variable {s t : State}

/-- The failed entries and the fault records of Write Timeouts stay. -/
theorem failedMatchesFaults_of (before : WriteQueueWf s.wq) (after : WriteQueueWf t.wq)
    (h : failedMatchesFaults s)
    (same : sameFailing (fun e => e.failed = true) (fun e => e.failed = true) s.wq t.wq)
    (record : ∀ x pn offset lanes data, t.admission x = .halted (.writeTimeout pn offset lanes data) ↔
      s.admission x = .halted (.writeTimeout pn offset lanes data)) : failedMatchesFaults t :=
  (failedMatchesFaults_iff after).2 (matchFaults_of ((failedMatchesFaults_iff before).1 h) same record)

theorem failedMatchesFaults_of_same (h : failedMatchesFaults s) (before : WriteQueueWf s.wq)
    (wq : t.wq = s.wq) (targets : t.admission = s.admission) : failedMatchesFaults t :=
  failedMatchesFaults_of before (wq ▸ before) h
    (wq ▸ sameFailing_of_mem (fun _ he fails => ⟨he, fails⟩) fun _ he fails => ⟨he, fails⟩)
    fun _ _ _ _ _ => by rw [targets]

/-- A target becomes Open, and of the failed entries those of other targets are left. -/
theorem failedMatchesFaults_open {x : Target} (before : WriteQueueWf s.wq) (after : WriteQueueWf t.wq)
    (h : failedMatchesFaults s) (admission : ∀ y, t.admission y = if y = x then .opened else s.admission y)
    (entries : ∀ e, e.failed = true →
      (.write e ∈ t.wq.entries ↔ .write e ∈ s.wq.entries ∧ e.target ≠ x)) :
    failedMatchesFaults t := by
  obtain ⟨recorded, failed⟩ := (failedMatchesFaults_iff before).1 h
  refine (failedMatchesFaults_iff after).2 ⟨fun y pn offset lanes data halted => ?_, fun e he fails => ?_⟩
  · beta_reduce at halted
    rw [admission] at halted
    split at halted
    · cases halted
    · next other =>
      obtain ⟨e, he, rfl, rfl, fails⟩ := recorded y pn offset lanes data halted
      exact ⟨e, (entries e fails).2 ⟨he, other⟩, rfl, rfl, fails⟩
  · obtain ⟨he, other⟩ := (entries e fails).1 he
    beta_reduce
    rw [admission, if_neg other]
    exact failed e he fails

end

/-- The failed entries of a target Halted by Write Timeout are the one its record names. -/
theorem failed_pn {s : State} (wf : WriteQueueWf s.wq) (h : failedMatchesFaults s) {x : Target} {pn : PN}
    {offset : Offset} {lanes : Lanes} {data : LaneWord}
    (halted : s.admission x = .halted (.writeTimeout pn offset lanes data)) {e : WriteEntry}
    (he : .write e ∈ s.wq.entries) (fails : e.failed = true) : e.pn = pn ↔ e.target = x := by
  obtain ⟨recorded, failed⟩ := (failedMatchesFaults_iff wf).1 h
  constructor
  · rintro rfl
    obtain ⟨e', he', name, target, -⟩ := recorded x _ _ _ _ halted
    exact write_ext wf he' he name ▸ target
  · rintro rfl
    obtain ⟨_, _, _, halted'⟩ := failed e he fails
    cases halted.symm.trans halted'
    rfl

/-! ## The updates -/

theorem admission_takeAttention (x : Target) (s : State) :
    (takeAttention x s).admission = s.admission := by
  obtain e | ⟨r, -, e⟩ | ⟨-, e⟩ := takeAttention_cases x s <;> rw [e] <;> rfl

theorem Update.keeps_faults {s t : State} (h : Update s t) (wf : OrderWf s)
    (faults : failedMatchesFaults s) : failedMatchesFaults t := by
  have before : WriteQueueWf s.wq := wf.1
  have after : WriteQueueWf t.wq := h.entriesOp.keeps before
  cases h
  case stage x f =>
    exact failedMatchesFaults_of_same faults before rfl (funext fun y => admission_stage x y f s)
  case attention x _ =>
    refine failedMatchesFaults_of_same faults before ?_ (admission_takeAttention x s)
    obtain e | ⟨r, -, e⟩ | ⟨-, e⟩ := takeAttention_cases x s <;> rw [e] <;> rfl
  case release x =>
    obtain ⟨au, e⟩ := releaseAttention_frame x s
    rw [e] at after ⊢
    exact failedMatchesFaults_of_same faults before rfl rfl
  case enable x disabled _ =>
    refine failedMatchesFaults_open before after faults (fun y => admission_setTarget ..) fun e fails =>
      (and_iff_left_of_imp ?_).symm
    rintro he rfl
    obtain ⟨-, failed⟩ := (failedMatchesFaults_iff before).1 faults
    obtain ⟨_, _, _, halted⟩ := failed e he fails
    cases disabled.symm.trans halted
  case disable x idle =>
    have noWrite : ∀ e, .write e ∈ s.wq.entries → e.target ≠ x := by
      rintro e he rfl
      exact List.any_eq_false.1 (busyWith_eq_none.1 idle).2.2.1 _ he (beq_self_eq_true _)
    refine failedMatchesFaults_of before after faults
      (sameFailing_of_mem (fun _ he fails => ⟨he, fails⟩) fun _ he fails => ⟨he, fails⟩)
      fun y pn offset lanes data => ?_
    rw [admission_setAdmission]
    split
    · next same =>
      subst same
      refine ⟨nofun, fun halted => ?_⟩
      obtain ⟨recorded, -⟩ := (failedMatchesFaults_iff before).1 faults
      obtain ⟨e, he, -, target, -⟩ := recorded _ _ _ _ _ halted
      exact absurd target (noWrite e he)
    · exact Iff.rfl
  case resumeFailed x pn _ _ _ halted =>
    refine failedMatchesFaults_open before after faults (admission_openTarget s x) fun e fails => ?_
    rw [updateEntry_wq, mem_update]
    constructor
    · rintro ⟨e', he', rfl⟩
      split at fails
      · cases fails
      · next other =>
        rw [if_neg other]
        exact ⟨he', fun target => other ((failed_pn before faults halted he' fails).2 target)⟩
    · rintro ⟨he, other⟩
      refine ⟨e, he, (if_neg fun name => other ?_).symm⟩
      exact (failed_pn before faults halted he fails).1 name
  case resume x fault notTimeout halted =>
    refine failedMatchesFaults_open before after faults (admission_openTarget s x) fun e fails =>
      (and_iff_left_of_imp ?_).symm
    rintro he rfl
    obtain ⟨-, failed⟩ := (failedMatchesFaults_iff before).1 faults
    obtain ⟨_, _, _, timeout⟩ := failed e he fails
    cases halted.symm.trans timeout
    exact notTimeout _ _ _ _ rfl
  case skip x pn _ _ _ halted =>
    refine failedMatchesFaults_open before after faults (admission_openTarget s x) fun e fails => ?_
    rw [leaveQueue_wq, mem_remove, openTarget_wq]
    refine and_congr_right fun he => ?_
    rw [List.mem_singleton]
    exact not_congr (failed_pn before faults halted he fails)
  case discard x _ _ =>
    refine failedMatchesFaults_open before after faults (admission_openTarget s x) fun e fails => ?_
    rw [leaveQueue_wq, mem_remove, openTarget_wq]
    refine and_congr_right fun he => ?_
    rw [not_iff_not, mem_pnsOf]
    constructor
    · rintro ⟨e', he', name, target⟩
      exact write_ext before he' he name ▸ target
    · exact fun target => ⟨e, he, rfl, target⟩
  case retire f due =>
    obtain ⟨-, present, -⟩ := fenceDue_some due
    refine failedMatchesFaults_of before after faults (sameFailing_remove
      (q := { s.wq with lastFenceRetired := f.pn }) fun e he _ gone => ?_) fun _ _ _ _ _ => Iff.rfl
    obtain ⟨-, distinct, -, -⟩ := before
    cases List.inj_on_of_nodup_map distinct he present (List.mem_singleton.1 gone)
  case fence =>
    exact failedMatchesFaults_of before after faults (sameFailing_push nofun) fun _ _ _ _ _ => Iff.rfl
  case enter | enterHeld =>
    refine failedMatchesFaults_of before after faults (sameFailing_push ?_) fun _ _ _ _ _ => Iff.rfl
    rintro e ⟨⟩
    exact nofun
  case merge w e found =>
    exact failedMatchesFaults_of before after faults
      (sameFailing_update (fun _ => rfl) (fun _ => rfl) (fun _ _ _ => Iff.rfl) fun _ _ _ => Iff.rfl)
      fun _ _ _ _ _ => Iff.rfl
  case grant r _ winner =>
    obtain ⟨_, _, _, -, -, -, -, -, e, ⟨_, _, -, -, rfl⟩ | ⟨_, -, -, -, rfl⟩ | ⟨_, -, -, rfl⟩⟩ :=
      grant_cases (winner_mem winner).2 <;> rw [e] at after ⊢
    · exact failedMatchesFaults_of before after faults
        (sameFailing_update (fun _ => rfl) (fun _ => rfl) (fun _ _ _ => Iff.rfl) fun _ _ _ => Iff.rfl)
        fun _ _ _ _ _ => Iff.rfl
    · exact failedMatchesFaults_of_same faults before rfl rfl
    · exact failedMatchesFaults_of_same faults before rfl rfl
  case clear =>
    refine (failedMatchesFaults_iff after).2 ⟨fun x pn offset lanes data halted => ?_, nofun⟩
    beta_reduce at halted
    rw [admission_clearEverything] at halted
    split at halted
    · cases halted
    · next notHalted => rw [halted] at notHalted; exact absurd rfl notHalted
  case reset =>
    refine (failedMatchesFaults_iff after).2 ⟨fun x pn offset lanes data halted => ?_, nofun⟩
    cases (admission_reset x).symm.trans halted
  all_goals exact failedMatchesFaults_of_same faults before rfl rfl

/-- The write entry of the access in flight is present, of the access's Open target. -/
theorem entry_of_access {s : State} (h : OwnersWf s) {a : Access} (access : s.dbe.access = some a)
    {pn : PN} (request : a.request = .entry pn) : ∃ e, .write e ∈ s.wq.entries ∧ e.pn = pn
      ∧ e.target = a.target ∧ s.admission e.target = .opened := by
  obtain ⟨order, flight, ⟨owner, -⟩, -⟩ := h
  obtain ⟨⟨r, hr, id, target⟩, -⟩ := owner a access
  obtain ⟨e, he, name, target⟩ := write_of_present order hr (id.trans request) target
  exact ⟨e, he, name, target, target ▸ (flight a access).1⟩

/-- A grant makes its request the one shown Issued. -/
theorem accessHasOwner_grant {s : State} {r : PresentRequest} (h : accessHasOwner s)
    (queue : WriteQueueWf s.wq) (free : s.mayGrant = true) (winner : s.winner? = some r) :
    accessHasOwner (grant r s) := by
  obtain ⟨idle, -, running⟩ := mayGrant_iff.1 free
  obtain ⟨-, only⟩ := h
  have none : ∀ id, ¬ shownIssued s id := by
    intro id shown
    obtain clearing | ⟨a, access, -⟩ := only id shown
    · exact running clearing
    · rw [idle] at access
      cases access
  obtain ⟨present, eligible⟩ := winner_mem winner
  obtain ⟨t, a, u, target, request, atarget, result, phase, granted, owner⟩ := grant_cases eligible
  have shown : ∀ id, shownIssued u id ↔ id = r.id := by
    intro id
    obtain ⟨pn, e, name, found, rfl⟩ | ⟨q, name, held, -, rfl⟩ | ⟨k, name, -, rfl⟩ := owner <;> rw [name]
    · obtain ⟨he, rfl⟩ := find_some found
      have entry : ∀ p, shownIssued (updateEntry e.pn issuedEntry s) (.entry p) ↔ p = e.pn := by
        intro p
        rw [shownIssued_entry (writeQueueWf_update (f := issuedEntry) queue e.pn fun _ => rfl)]
        constructor
        · rintro ⟨x, hx, rfl, issued⟩
          obtain ⟨y, hy, rfl⟩ := mem_update.1 hx
          split at issued
          · next same => rw [if_pos same]; exact same
          · exact absurd ((shownIssued_entry queue).2 ⟨y, hy, rfl, issued⟩) (none _)
        · rintro rfl
          exact ⟨_, mem_update.2 ⟨e, he, (if_pos rfl).symm⟩, rfl, rfl⟩
      cases id with
      | entry p => rw [entry, RequestId.entry.injEq]
      | heldRead => exact iff_of_false (none .heldRead) nofun
      | fetch k => exact iff_of_false (none (.fetch k)) nofun
    · cases id with
      | entry p => exact iff_of_false (none (.entry p)) nofun
      | heldRead => exact iff_of_true (shownIssued_heldRead_iff.2 ⟨_, rfl, rfl⟩) rfl
      | fetch k => exact iff_of_false (none (.fetch k)) nofun
    · rw [shownIssued_setSlot]
      split
      · next same => exact iff_of_true (.inl rfl) same
      · next other => exact iff_of_false (none _) other
  have same : ∀ id, shownIssued (grant r s) id ↔ shownIssued u id := by
    intro id
    rw [granted]
    cases id <;> exact Iff.rfl
  have access : (grant r s).dbe.access = some a := by rw [granted]
  have ou : (grant r s).ou = s.ou := by
    rw [granted]
    obtain ⟨_, _, -, -, rfl⟩ | ⟨_, -, -, -, rfl⟩ | ⟨_, -, -, rfl⟩ := owner <;> rfl
  refine ⟨fun b hb => ?_, fun id hid => ?_⟩
  · obtain rfl : a = b := Option.some.inj (access.symm.trans hb)
    exact ⟨⟨r, ou ▸ present, request.symm, atarget ▸ target⟩, (same _).2 ((shown _).2 request),
      iff_of_false (by rw [result]; exact fun h => h rfl) phase⟩
  · exact .inr ⟨a, access, request.trans ((shown id).1 ((same id).1 hid)).symm⟩

theorem accessHasOwner_of_idle {s : State} (idle : s.dbe.access = none)
    (none : ∀ id, ¬ shownIssued s id) : accessHasOwner s :=
  ⟨fun _ access => (nomatch idle.symm.trans access), fun id shown => absurd shown (none id)⟩

/-- A state with no write entry, no held read and no fetch shows nothing Issued. -/
theorem not_shownIssued_of_empty {s : State} (entries : s.wq.entries = []) (held : s.hif.held = none)
    (fs : ∀ k : SlotNo, s.fs[k] = .powerOn) (id : RequestId) : ¬ shownIssued s id := by
  cases id with
  | entry pn =>
    rintro ⟨e, found, -⟩
    have mem := (find_some found).1
    rw [entries] at mem
    cases mem
  | heldRead =>
    intro shown
    obtain ⟨r, hr, -⟩ := shownIssued_heldRead_iff.1 shown
    rw [held] at hr
    cases hr
  | fetch k =>
    rintro (state | state) <;> rw [fs] at state <;> cases state

theorem Update.keeps_owner {s t : State} (h : Update s t) (wf : OwnersWf s) : accessHasOwner t := by
  obtain ⟨order, flight, owner, faults⟩ := id wf
  have before : WriteQueueWf s.wq := order.1
  have after : WriteQueueWf t.wq := h.entriesOp.keeps before
  have calm : Calm s t → accessHasOwner t := fun calm => accessHasOwner_of_calm calm owner
  have notOpened : ∀ {x : Target} {fault}, s.admission x = .halted fault → s.admission x ≠ .opened :=
    fun halted opened => by cases halted.symm.trans opened
  cases h
  case attention x _ =>
    obtain e | ⟨r, -, e⟩ | ⟨-, e⟩ := takeAttention_cases x s <;> rw [e] at calm ⊢ <;>
      exact calm (calm_of_same rfl rfl rfl rfl rfl id)
  case release x =>
    obtain ⟨au, e⟩ := releaseAttention_frame x s
    rw [e] at calm ⊢
    exact calm (calm_of_same rfl rfl rfl rfl rfl id)
  case bridge b allowed =>
    exact calm (calm_of_same rfl rfl rfl rfl rfl fun clearing => allowed.resolve_left (absurd clearing))
  case phase a b request target result access =>
    obtain ⟨present, only⟩ := owner
    have same : ∀ id, shownIssued (setAccess (some b) s) id ↔ shownIssued s id := by
      intro id
      cases id <;> exact Iff.rfl
    refine ⟨fun c hc => ?_, fun id shown => ?_⟩
    · obtain rfl : b = c := Option.some.inj hc
      obtain ⟨here, shown, phase⟩ := present a access
      rw [request, target]
      exact ⟨here, (same _).2 shown, result phase⟩
    · obtain clearing | ⟨c, hc, named⟩ := only id ((same id).1 shown)
      · exact .inl clearing
      · obtain rfl : a = c := Option.some.inj (access.symm.trans hc)
        exact .inr ⟨b, rfl, request.trans named⟩
  case resumeFailed x pn _ _ _ halted =>
    have opened : Calm s (s.openTarget x) := calm_of_same rfl rfl rfl rfl rfl id
    exact accessHasOwner_of_calm (calm_updateEntry (s := s.openTarget x) before pn (fun _ => rfl)
      fun _ => rfl) (accessHasOwner_of_calm opened owner)
  case skip x pn _ _ _ halted =>
    have opened : Calm s (s.openTarget x) := calm_of_same rfl rfl rfl rfl rfl id
    refine accessHasOwner_of_calm (calm_leaveQueue (s := s.openTarget x) before true ?_)
      (accessHasOwner_of_calm opened owner)
    intro a access p hp request
    obtain rfl := List.mem_singleton.1 hp
    obtain ⟨e, he, name, -, isOpen⟩ := entry_of_access wf access request
    obtain ⟨recorded, -⟩ := (failedMatchesFaults_iff before).1 faults
    obtain ⟨e', he', name', target, -⟩ := recorded x _ _ _ _ halted
    obtain rfl := write_ext before he he' (name.trans name'.symm)
    exact notOpened halted (target ▸ isOpen)
  case discard x _ idle =>
    have opened : Calm s (s.openTarget x) := calm_of_same rfl rfl rfl rfl rfl id
    refine accessHasOwner_of_calm (calm_leaveQueue (s := s.openTarget x) before true ?_)
      (accessHasOwner_of_calm opened owner)
    intro a access p hp request
    obtain ⟨e, he, name, target, -⟩ := entry_of_access wf access request
    obtain ⟨e', he', name', target'⟩ := mem_pnsOf.1 hp
    obtain rfl := write_ext before he he' (name.trans name'.symm)
    exact Bool.noConfusion (idle.symm.trans (inFlight_iff.2 ⟨a, access, target ▸ target'⟩))
  case retire f due =>
    obtain ⟨-, present, -⟩ := fenceDue_some due
    have named : Calm s { s with wq := { s.wq with lastFenceRetired := f.pn } } :=
      calm_of_same rfl rfl rfl rfl rfl id
    refine accessHasOwner_of_calm (calm_leaveQueue
      (s := { s with wq := { s.wq with lastFenceRetired := f.pn } }) before false ?_)
      (accessHasOwner_of_calm named owner)
    intro a access p hp request
    obtain rfl := List.mem_singleton.1 hp
    obtain ⟨e, he, name, -, -⟩ := entry_of_access wf access request
    obtain ⟨-, distinct, -, -⟩ := before
    cases List.inj_on_of_nodup_map distinct he present name
  case fence notify room =>
    exact calm (calm_push before after rfl rfl nofun rfl rfl rfl id)
  case merge w e _ =>
    exact calm (calm_updateEntry before e.pn (fun _ => rfl) fun _ => rfl)
  case enter w opened room =>
    refine calm (calm_push before after rfl rfl ?_ rfl rfl rfl id)
    rintro e ⟨⟩
    exact nofun
  case enterHeld w hw room =>
    refine calm (calm_push before after rfl rfl ?_ (heldRead_of_heldWrite hw).symm rfl rfl id)
    rintro e ⟨⟩
    exact nofun
  case holdWrite w none opened =>
    exact calm (calm_of_same rfl rfl (heldRead_of_none none).symm rfl rfl id)
  case dropWrite w hw => exact calm (calm_of_same rfl rfl (heldRead_of_heldWrite hw).symm rfl rfl id)
  case holdRead x offset lanes none opened =>
    refine calm (calm_arrive rfl (issuesNone_hold rfl rfl ?_) (fun id shown => ?_) rfl id)
    · rintro r ⟨⟩
      exact nofun
    · cases id with
      | heldRead =>
        obtain ⟨r, hr, -⟩ := shownIssued_heldRead_iff.1 shown
        rw [none] at hr
        cases hr
      | entry pn => exact shown
      | fetch k => exact shown
  case dropRead r waiting held =>
    refine calm (calm_depart (id := .heldRead) rfl (fun i hi => ?_) ?_ ?_ rfl id)
    · cases i with
      | heldRead => exact absurd rfl hi
      | entry pn => exact Iff.rfl
      | fetch k => exact Iff.rfl
    · rintro ⟨q, hq, issued⟩
      obtain rfl := Option.some.inj (held.symm.trans hq)
      cases waiting.symm.trans issued
    · rintro ⟨q, hq, -⟩
      cases hq
  case endCycle r issued held =>
    refine calm (calm_of_shown rfl (fun id => ?_) rfl id)
    cases id with
    | heldRead => exact iff_of_true ⟨_, rfl, issued⟩ ⟨r, held, issued⟩
    | entry pn => exact Iff.rfl
    | fetch k => exact Iff.rfl
  case slotMarks k r state _ =>
    exact calm (calm_of_shown rfl (shownIssued_setSlot_iff (by rw [state]; exact Iff.rfl)) rfl id)
  case slotIdle k r idle idleBefore =>
    refine calm (calm_of_shown rfl (shownIssued_setSlot_iff (iff_of_false ?_ ?_)) rfl id)
    · rintro (state | state) <;> rw [state] at idle <;> cases idle
    · rintro (state | state) <;> rw [state] at idleBefore <;> cases idleBefore
  case fetch k r waiting free opened =>
    have shown := shownIssued_setSlot_iff (k := k) (r := r) (s := s)
      (iff_of_false (by simp [waiting]) (by rintro (e | e) <;> cases free.symm.trans e))
    have same : ∀ id, shownIssued (arriveRequest (.fetch k) (some r.target) (setSlot k r s)) id ↔
        shownIssued (setSlot k r s) id := by
      intro id
      cases id <;> exact Iff.rfl
    exact calm (calm_arrive rfl (fun id h => (shown id).1 ((same id).1 h))
      (fun id h => (same id).2 ((shown id).2 h)) rfl id)
  case cancel k issued =>
    exact calm (calm_of_shown rfl (shownIssued_setSlot_iff (iff_of_true (.inr rfl) (.inl issued)))
      rfl id)
  case dropFetch k r idle waiting =>
    have shown : ∀ id, shownIssued (depart [.fetch k] (setSlot k r s)) id ↔
        shownIssued (setSlot k r s) id := by
      intro id
      cases id <;> exact Iff.rfl
    refine calm (calm_depart (id := .fetch k) rfl (fun i hi => ?_) ?_ ?_ rfl id)
    · rw [shown, shownIssued_setSlot, if_neg hi]
    · rintro (e | e) <;> cases waiting.symm.trans e
    · rw [shown, shownIssued_setSlot, if_pos rfl]
      rintro (state | state) <;> rw [state] at idle <;> cases idle
  case grant r free winner => exact accessHasOwner_grant owner before free winner
  case clear due =>
    have idle : s.dbe.access = none := by simpa using (Bool.and_eq_true_iff.1 due).2
    exact accessHasOwner_of_idle idle
      (not_shownIssued_of_empty rfl rfl fun k => by simp [clearEverything])
  case reset =>
    exact accessHasOwner_of_idle rfl (not_shownIssued_of_empty rfl rfl fun k => by simp [State.reset])
  all_goals exact calm (calm_of_same rfl rfl rfl rfl rfl id)

theorem Update.keeps_owners {s t : State} (h : Update s t) (wf : OwnersWf s) : OwnersWf t := by
  obtain ⟨order, flight, -, faults⟩ := id wf
  exact ⟨h.keeps_order order, h.keeps_accessInFlight flight, h.keeps_owner wf,
    h.keeps_faults order faults⟩

end Sys2Proof.Machine
end

section
/-! The end of an access leaves it with its owners: while the responses to it are outstanding, what is
Issued, failed and Halted is what those responses will put right (R52, R60, R73, R103 to R105). -/

namespace Sys2Proof.Machine

/-! ## Outstanding responses -/

/-- A response of this kind is outstanding. -/
def pending (work : List Job) (task : Task) : Prop := ∃ j ∈ work, j.task = task

theorem heads_perm {work : List Job} {j : Job} {rest : List Job} (h : (j, rest) ∈ heads work) :
    work.Perm (j :: rest) := by
  induction work generalizing j rest with
  | nil => simp [heads] at h
  | cons a as ih =>
    simp only [heads, List.mem_cons, Prod.mk.injEq, List.mem_filterMap] at h
    obtain ⟨rfl, rfl⟩ | ⟨⟨k, r⟩, hk, heq⟩ := h
    · exact .refl _
    · split at heq
      · cases heq
      · cases heq
        exact ((ih hk).cons a).trans (.swap _ _ _)

theorem pending_of_head {work : List Job} {j : Job} {rest : List Job} (h : (j, rest) ∈ heads work)
    (task : Task) : pending work task ↔ j.task = task ∨ pending rest task := by
  simp only [pending, (heads_perm h).mem_iff, List.mem_cons, or_and_right, exists_or, exists_eq_left]

theorem pending_append {work more : List Job} {task : Task} :
    pending (work ++ more) task ↔ pending work task ∨ pending more task := by
  simp only [pending, List.mem_append, or_and_right, exists_or]

theorem not_pending_nil (task : Task) : ¬ pending [] task := by simp [pending]

/-- What holds of a state with its outstanding responses, and is kept by each of them and by each
consequence of a departure, holds once all are made. -/
theorem Responds.keeps {P : List Job → State → Prop}
    (choice : ∀ {work s} n, P work s → P work { s with choices := n })
    (job : ∀ {work s j rest}, (j, rest) ∈ heads work → P work s →
      P (rest ++ (runTask j.task s).2) (runTask j.task s).1)
    (due : ∀ {work s d}, d ∈ s.departureDues → P work s →
      P (work ++ (runDue d s).2) (runDue d s).1)
    {work : List Job} {s t : State} (h : Responds work s t) (start : P work s) : P [] t := by
  induction h with
  | done s => exact start
  | move m n _ hm _ ih =>
    have chosen := choice n start
    simp only [moves, List.mem_append, List.mem_map, List.mem_filter] at hm
    obtain ⟨⟨j, rest⟩, hj, rfl⟩ | ⟨d, ⟨mem, -⟩, rfl⟩ := hm
    · exact ih (job hj chosen)
    · exact ih (due (d := d) mem chosen)

/-! ## Responses that disturb no owner -/

/-- A response of the owner of the access's request, or a halt. -/
def Task.isMark : Task → Bool
  | .takeEnd _ | .halt _ _ => true
  | .seeHalt _ | .offer _ => false

/-- No further request is shown Issued, and no write entry or admission state changes; an entry that
is new has not failed. -/
structure Undisturbed (s t : State) : Prop where
  issues : issuesNone s t
  kept : ∀ e, .write e ∈ s.wq.entries → .write e ∈ t.wq.entries
  new : ∀ e, .write e ∈ t.wq.entries → .write e ∈ s.wq.entries ∨ e.failed = false
  admission : t.admission = s.admission

theorem undisturbed_of_issues {s t : State} (issues : issuesNone s t) (wq : t.wq = s.wq)
    (admission : t.admission = s.admission) : Undisturbed s t :=
  ⟨issues, fun _ he => wq ▸ he, fun _ he => .inl (wq ▸ he), admission⟩

theorem undisturbed_dropHold {s t : State} (wq : t.wq = s.wq) (fs : t.fs = s.fs)
    (held : t.hif.held = none) (admission : t.admission = s.admission) : Undisturbed s t :=
  undisturbed_of_issues (issuesNone_hold wq fs fun r hr => by rw [held] at hr; cases hr) wq admission

theorem undisturbed_retireFence {s : State} {f : FenceEntry} (wf : WriteQueueWf s.wq)
    (due : s.fenceDue? = some f) : Undisturbed s (retireFence f s).1 := by
  obtain ⟨-, present, -⟩ := fenceDue_some due
  have shown : issuesNone s { s with wq := { s.wq with lastFenceRetired := f.pn } } :=
    (calm_of_same (t := { s with wq := { s.wq with lastFenceRetired := f.pn } })
      rfl rfl rfl rfl rfl id).issues
  refine ⟨fun id h => shown id ((shownIssued_leaveQueue
    (s := { s with wq := { s.wq with lastFenceRetired := f.pn } }) wf [f.pn] false id).1 h).1,
    fun e he => mem_remove.2 ⟨he, fun gone => ?_⟩, fun e he => .inl (mem_remove.1 he).1, rfl⟩
  obtain ⟨-, distinct, -, -⟩ := wf
  cases List.inj_on_of_nodup_map distinct he present (List.mem_singleton.1 gone)

theorem undisturbed_runDue {d : Due} {s : State} (wf : WriteQueueWf s.wq)
    (due : d ∈ s.departureDues) : Undisturbed s (runDue d s).1 := by
  obtain ⟨rfl, isDue⟩ | ⟨t, rfl, -⟩ | ⟨rfl, isDue⟩ | ⟨rfl, -⟩ := mem_departureDues.1 due
  · obtain ⟨f, hf⟩ := Option.isSome_iff_exists.1 isDue
    simp only [runDue, hf]
    exact undisturbed_retireFence wf hf
  · obtain ⟨au, e⟩ := releaseAttention_frame t s
    simp only [runDue, e]
    exact undisturbed_of_issues (calm_of_same rfl rfl rfl rfl rfl id).issues rfl rfl
  · obtain ⟨-, w, held⟩ := recheckIsDue_iff.1 isDue
    obtain ⟨-, e⟩ | ⟨-, -, e⟩ | ⟨-, -, room, e⟩ | ⟨-, -, -, e⟩ := recheckHeldWrite_cases held <;>
      simp only [runDue, e]
    · exact undisturbed_dropHold rfl rfl rfl rfl
    · exact undisturbed_dropHold rfl rfl rfl rfl
    · refine ⟨issuesNone_push (x := .write _) wf (writeQueueWf_push wf room rfl) rfl ?_
        (heldRead_of_heldWrite held).symm rfl, fun e he => List.mem_append_left _ he,
        fun e he => (List.mem_append.1 he).imp_right fun new => ?_, rfl⟩
      · rintro e ⟨⟩
        exact nofun
      · cases List.mem_singleton.1 new
        rfl
    · exact undisturbed_of_issues (calm_of_same rfl rfl rfl rfl rfl id).issues rfl rfl
  · refine undisturbed_of_issues (fun id h => ?_) rfl rfl
    cases id <;> exact h

theorem undisturbed_seeHalt (t : Target) (s : State) : Undisturbed s (seeHalt t s).1
    ∧ ∀ j ∈ (seeHalt t s).2, j.task.isMark = false := by
  obtain ⟨w, -, -, h⟩ | ⟨r, -, -, -, h⟩ | h := seeHalt_cases t s <;> rw [h]
  · exact ⟨undisturbed_dropHold rfl rfl rfl rfl, by simp [Task.isMark]⟩
  · exact ⟨undisturbed_dropHold rfl rfl rfl rfl, by simp [haltHeldRead, Task.isMark]⟩
  · exact ⟨undisturbed_of_issues (issuesNone_refl s) rfl rfl, by simp⟩

/-! ## What the outstanding responses will put right -/

/-- The entry has failed, or the write queue has still to be told. -/
def willFail (a : Access) (work : List Job) (e : WriteEntry) : Prop :=
  e.failed = true
    ∨ pending work (.takeEnd a) ∧ a.result = some .timeout ∧ a.request = .entry e.pn

/-- The target is Halted so, or the Target Table has still to be told. -/
def willHalt (work : List Job) (s : State) (t : Target) (fault : FaultRecord) : Prop :=
  s.admission t = .halted fault ∨ s.admission t = .opened ∧ pending work (.halt t fault)

/-- While the responses to the end of access `a` are outstanding: its owner alone may show it Issued,
until it takes the end; and failed entries and fault records match once all are told. -/
structure EndingWf (a : Access) (work : List Job) (s : State) : Prop where
  order : OrderWf s
  idle : s.dbe.access = none
  shown : ∀ id, shownIssued s id → id = a.request ∧ pending work (.takeEnd a)
  once : work.countP (fun j => j.task == .takeEnd a) ≤ 1
  ends : ∀ b, pending work (.takeEnd b) → b = a
  halts : ∀ t fault, pending work (.halt t fault) →
    if a.result = some .timeout then fault = a.fault
    else ∀ pn offset lanes data, fault ≠ .writeTimeout pn offset lanes data
  owner : pending work (.takeEnd a) → ∀ pn, a.request = .entry pn →
    ∃ e, .write e ∈ s.wq.entries ∧ e.pn = pn ∧ (a.result ≠ some .timeout → e.failed = false)
  faults : matchFaults (willFail a work) (willHalt work s) s.wq

section
variable {a : Access} {work work' : List Job} {s t : State}

theorem EndingWf.of_undisturbed (h : EndingWf a work s) (calm : Undisturbed s t) (order : OrderWf t)
    (idle : t.dbe.access = none)
    (same : ∀ task, task.isMark = true → (pending work' task ↔ pending work task))
    (once : work'.countP (fun j => j.task == .takeEnd a)
      ≤ work.countP (fun j => j.task == .takeEnd a)) : EndingWf a work' t := by
  obtain ⟨-, -, shown, onceBefore, ends, halts, owner, faults⟩ := h
  obtain ⟨issues, kept, new, admission⟩ := calm
  have fails : ∀ e, willFail a work' e ↔ willFail a work e := fun e => by
    simp only [willFail, same (.takeEnd a) rfl]
  refine ⟨order, idle, fun id h => ?_, once.trans onceBefore, fun b hb => ends b ((same _ rfl).1 hb),
    fun x fault h => halts x fault ((same _ rfl).1 h), fun p pn request => ?_, ?_⟩
  · obtain ⟨name, p⟩ := shown id (issues id h)
    exact ⟨name, (same _ rfl).2 p⟩
  · obtain ⟨e, he, name, sound⟩ := owner ((same _ rfl).1 p) pn request
    exact ⟨e, kept e he, name, sound⟩
  · refine matchFaults_of faults (sameFailing_of_mem (fun e he f => ⟨kept e he, (fails e).2 f⟩)
      fun e he f => ⟨?_, (fails e).1 f⟩) fun x pn offset lanes data => ?_
    · obtain old | sound := new e he
      · exact old
      · obtain failed | ⟨p, -, request⟩ := (fails e).1 f
        · rw [sound] at failed
          cases failed
        · obtain ⟨x, hx, name, -⟩ := owner p e.pn request
          exact write_ext order.1 he (kept x hx) name.symm ▸ hx
    · simp only [willHalt, admission, same (.halt _ _) rfl]

theorem same_of_marks (h : ∀ j ∈ work', j.task.isMark = false) (task : Task)
    (mark : task.isMark = true) : pending (work ++ work') task ↔ pending work task := by
  rw [pending_append, or_iff_left]
  rintro ⟨j, hj, rfl⟩
  rw [h j hj] at mark
  cases mark

theorem count_of_marks (h : ∀ j ∈ work', j.task.isMark = false) :
    (work ++ work').countP (fun j => j.task == .takeEnd a)
      = work.countP (fun j => j.task == .takeEnd a) := by
  rw [List.countP_append, Nat.add_eq_left, List.countP_eq_zero]
  intro j hj same
  have mark := h j hj
  rw [beq_iff_eq.1 same] at mark
  cases mark

end

/-! ## The owner takes the end -/

/-- What the owner's response does: nothing is shown Issued afterwards, and the entry that was to fail
has failed. -/
structure OwnerTold (a : Access) (s t : State) (more : List Job) : Prop where
  shown : ∀ id, ¬ shownIssued t id
  admission : t.admission = s.admission
  failing : ∀ work, pending work (.takeEnd a) →
    sameFailing (willFail a work) (fun e => e.failed = true) s.wq t.wq
  unmarked : ∀ j ∈ more, j.task.isMark = false

section
variable {a : Access} {work : List Job} {s t : State}

theorem shown_of_owner (h : EndingWf a work s) (issues : issuesNone s t)
    (owner : ¬ shownIssued t a.request) (id : RequestId) : ¬ shownIssued t id := by
  intro shown
  obtain ⟨rfl, -⟩ := h.shown id (issues id shown)
  exact owner shown

/-- The queue is told of no failure where the request is not one of its entries. -/
theorem failing_of_other {id : RequestId} (request : a.request = id) (other : id.isEntry = false)
    (wq : t.wq = s.wq) (work : List Job) :
    sameFailing (willFail a work) (fun e => e.failed = true) s.wq t.wq := by
  have fails : ∀ e, willFail a work e ↔ e.failed = true := fun e => or_iff_left fun ⟨_, _, name⟩ => by
    rw [← request, name] at other
    cases other
  rw [wq]
  exact sameFailing_of_mem (fun e he f => ⟨he, (fails e).1 f⟩) fun e he f => ⟨he, (fails e).2 f⟩

/-- The queue tells no failure where the access ended Done. -/
theorem willFail_of_done (done : a.result = some .done) (e : WriteEntry) :
    willFail a work e ↔ e.failed = true := by
  simp [willFail, done]

theorem ownerTold_entry {pn : PN} (h : EndingWf a work s) (result : a.result ≠ none)
    (waits : pending work (.takeEnd a)) (request : a.request = .entry pn) :
    OwnerTold a s (wqTakesEnd a pn s).1 (wqTakesEnd a pn s).2 := by
  have queue : WriteQueueWf s.wq := h.order.1
  obtain ⟨e, he, rfl, sound⟩ := h.owner waits pn request
  have found : s.wq.find e.pn = some e := (find_eq_some_iff queue).2 ⟨he, rfl⟩
  have changed : ∀ {f : WriteEntry → WriteEntry}, (∀ x, (f x).pn = x.pn) →
      (∀ x, (f x).progress ≠ .issued) → ∀ id, ¬ shownIssued (updateEntry e.pn f s) id := by
    intro f names progress
    refine shown_of_owner h (issuesNone_update queue e.pn names fun x issued =>
      absurd issued (progress x)) ?_
    rw [request, shownIssued_entry (writeQueueWf_update queue _ names)]
    rintro ⟨x, hx, name, issued⟩
    obtain ⟨y, hy, rfl⟩ := mem_update.1 hx
    split at name <;> rename_i same
    · rw [if_pos same] at issued
      exact progress y issued
    · exact same name
  obtain ⟨none | none, -⟩ | ⟨x, hx, ⟨done, -, e'⟩ | ⟨done, -, e'⟩ | ⟨timeout, e'⟩⟩ :=
    wqTakesEnd_cases a e.pn s
  · rw [found] at none; cases none
  · exact absurd none result
  · rw [e']
    refine ⟨changed (fun _ => rfl) fun _ => nofun, rfl, fun work _ => ?_, by simp⟩
    have fails := willFail_of_done (work := work) done
    exact sameFailing_update (fun _ => rfl) (fun _ => rfl) (fun x _ _ => (fails x).symm)
      fun x _ _ => (fails x).symm
  · rw [e']
    refine ⟨shown_of_owner h (fun id shown => ((shownIssued_leaveQueue queue _ _ id).1 shown).1) ?_,
      rfl, fun work _ => ?_, by simp⟩
    · rw [request, shownIssued_leaveQueue queue]
      exact fun shown => shown.2 e.pn (List.mem_singleton_self _) rfl
    · have fails := willFail_of_done (work := work) done
      refine sameFailing_of_mem (fun x hx f => ⟨mem_remove.2 ⟨hx, fun gone => ?_⟩, (fails x).1 f⟩)
        fun x hx f => ⟨(mem_remove.1 hx).1, (fails x).2 f⟩
      obtain rfl := write_ext queue hx he (List.mem_singleton.1 gone)
      have failed := (fails x).1 f
      rw [sound (by rw [done]; nofun)] at failed
      cases failed
  · rw [e']
    refine ⟨changed (fun _ => rfl) fun x => ?_, rfl, fun work waits => ?_, by simp [Task.isMark]⟩
    · unfold failedEntry
      split <;> exact nofun
    · refine sameFailing_update (fun _ => rfl) (fun _ => rfl) (fun x _ name => ?_) fun x _ other => ?_
      · exact iff_of_true rfl (.inr ⟨waits, timeout, name ▸ request⟩)
      · exact (or_iff_left fun ⟨_, _, same⟩ =>
          other (RequestId.entry.inj (same.symm.trans request))).symm

theorem ownerTold_heldRead (h : EndingWf a work s) (result : a.result ≠ none)
    (request : a.request = .heldRead) : OwnerTold a s (hifTakesEnd a s).1 (hifTakesEnd a s).2 := by
  have told : ∀ {t more}, t.wq = s.wq → t.fs = s.fs →
      (∀ r, t.hif.held = some (.read r) → r.phase ≠ .issued) → t.admission = s.admission →
      (∀ j ∈ more, j.task.isMark = false) → OwnerTold a s t more := by
    intro t more wq fs held admission unmarked
    refine ⟨shown_of_owner h (issuesNone_hold wq fs held) ?_, admission,
      fun work _ => failing_of_other request rfl wq work, unmarked⟩
    rw [request, shownIssued_heldRead_iff]
    rintro ⟨r, hr, issued⟩
    exact held r hr issued
  obtain ⟨none | none, e⟩ | ⟨r, held, ⟨-, e⟩ | ⟨-, e⟩ | ⟨-, -, e⟩ | ⟨data, e⟩ | ⟨n, e⟩⟩ :=
    hifTakesEnd_cases a s
  · rw [e]
    refine told rfl rfl (fun r hr => ?_) rfl (by simp)
    rw [heldRead_eq_some_iff.2 hr] at none
    cases none
  · exact absurd none result
  · rw [e, timeOutHeldRead]
    split <;> exact told rfl rfl nofun rfl (by simp [Task.isMark])
  · rw [e]
    exact told rfl rfl nofun rfl (by simp [haltHeldRead, Task.isMark])
  · rw [e]
    refine told rfl rfl ?_ rfl (by simp)
    rintro q ⟨⟩
    exact nofun
  · rw [e]
    exact told rfl rfl nofun rfl (by simp)
  · rw [e]
    exact told rfl rfl nofun rfl (by simp [Task.isMark])

theorem ownerTold_fetch {k : SlotNo} (h : EndingWf a work s) (result : a.result ≠ none)
    (request : a.request = .fetch k) : OwnerTold a s (fsTakesEnd a k s).1 (fsTakesEnd a k s).2 := by
  have told : ∀ {t more}, issuesNone s t → ¬ shownIssued t (.fetch k) → t.wq = s.wq →
      t.admission = s.admission → (∀ j ∈ more, j.task.isMark = false) → OwnerTold a s t more :=
    fun issues owner wq admission unmarked =>
      ⟨shown_of_owner h issues (request ▸ owner), admission,
        fun work _ => failing_of_other request rfl wq work, unmarked⟩
  have set : ∀ {r : FetchSlot}, r.state ≠ .issued ∧ r.state ≠ .cancelling →
      ¬ shownIssued (setSlot k r s) (.fetch k) := by
    rintro r ⟨issued, cancelling⟩ shown
    rw [shownIssued_setSlot, if_pos rfl] at shown
    exact shown.elim issued cancelling
  obtain ⟨⟨issued, cancelling⟩ | none, e⟩ | ⟨-, e⟩ | ⟨r, more, -, idle, unmarked, e⟩ :=
    fsTakesEnd_cases a k s
  · rw [e]
    exact told (issuesNone_refl s) (fun shown => shown.elim issued cancelling) rfl rfl (by simp)
  · exact absurd none result
  · rw [e]
    exact told (issuesNone_setSlot s ⟨nofun, nofun⟩) (set ⟨nofun, nofun⟩) rfl rfl (by simp)
  · rw [e]
    have waits : r.state ≠ .issued ∧ r.state ≠ .cancelling := by
      constructor <;> intro state <;> rw [state] at idle <;> cases idle
    have same : ∀ id, shownIssued (depart [.fetch k] (setSlot k r s)) id ↔
        shownIssued (setSlot k r s) id := fun id => by cases id <;> exact Iff.rfl
    refine told (fun id shown => issuesNone_setSlot s waits id ((same id).1 shown))
      (fun shown => set waits ((same _).1 shown)) rfl rfl ?_
    obtain rfl | ⟨n, rfl⟩ := unmarked
    · simp
    · simp [Task.isMark]

theorem ownerTold_takeEnd (h : EndingWf a work s) (result : a.result ≠ none)
    (waits : pending work (.takeEnd a)) : OwnerTold a s (takeEnd a s).1 (takeEnd a s).2 := by
  unfold takeEnd
  split
  · next pn request => exact ownerTold_entry h result waits request
  · next request => exact ownerTold_heldRead h result request
  · next k request => exact ownerTold_fetch h result request

end

/-! ## Every response -/

theorem Effects.keeps_order {s t : State} (h : Effects s t) (wf : OrderWf s) : OrderWf t := by
  induction h with
  | refl => exact wf
  | tail _ last ih =>
    cases last with
    | update last => exact last.keeps_order ih
    | atEnd last => exact last.keeps_order ih

section
variable {a : Access} {work rest : List Job} {j : Job} {s : State}

theorem endingWf_takeEnd (h : EndingWf a work s) (result : a.result ≠ none)
    (head : (j, rest) ∈ heads work) (task : j.task = .takeEnd a) :
    EndingWf a (rest ++ (takeEnd a s).2) (takeEnd a s).1 := by
  have waits : pending work (.takeEnd a) := (pending_of_head head _).2 (.inl task)
  obtain ⟨shown, admission, failing, unmarked⟩ := ownerTold_takeEnd h result waits
  have counted := (heads_perm head).countP_eq (fun j => j.task == .takeEnd a)
  rw [List.countP_cons, if_pos (by rw [task]; exact beq_self_eq_true _)] at counted
  have none : rest.countP (fun j => j.task == .takeEnd a) = 0 := by have := h.once; omega
  have told : ¬ pending rest (.takeEnd a) := by
    rintro ⟨k, hk, same⟩
    exact List.countP_eq_zero.1 none k hk (by rw [same]; exact beq_self_eq_true _)
  have same : ∀ {t fault}, pending (rest ++ (takeEnd a s).2) (.halt t fault) ↔
      pending work (.halt t fault) := by
    intro t fault
    rw [same_of_marks unmarked _ rfl, pending_of_head head, task]
    exact (or_iff_right nofun).symm
  have gone : ∀ b, ¬ pending (rest ++ (takeEnd a s).2) (.takeEnd b) := by
    intro b hb
    have old := (same_of_marks unmarked _ rfl).1 hb
    obtain rfl := h.ends b ((pending_of_head head _).2 (.inr old))
    exact told old
  refine ⟨(effects_takeEnd a s).keeps_order h.order,
    (congrArg DeviceBus.access (runTask_dbe (.takeEnd a) s)).trans h.idle,
    fun id hid => absurd hid (shown id), ?_, fun b hb => absurd hb (gone b),
    fun t fault hf => h.halts t fault (same.1 hf), fun hb => absurd hb (gone a), ?_⟩
  · rw [count_of_marks unmarked, none]
    exact Nat.zero_le _
  · refine matchFaults_of h.faults (fails' := willFail a (rest ++ (takeEnd a s).2)) ?_
      fun t pn offset lanes data => by simp only [willHalt, admission, same]
    have fails : ∀ e, willFail a (rest ++ (takeEnd a s).2) e ↔ e.failed = true :=
      fun e => or_iff_left fun p => gone a p.1
    obtain ⟨kept, new⟩ := failing work waits
    refine ⟨fun e he f => ?_, fun e he f => new e he ((fails e).1 f)⟩
    obtain ⟨x, hx, name, target, failed⟩ := kept e he f
    exact ⟨x, hx, name, target, (fails x).2 failed⟩

/-- Of the halts outstanding, a Write Timeout is the only one. -/
theorem EndingWf.halt_unique (h : EndingWf a work s) {t x : Target} {fault timeout : FaultRecord}
    (waits : pending work (.halt t fault)) (others : pending work (.halt x timeout))
    (isTimeout : ∃ pn offset lanes data, timeout = .writeTimeout pn offset lanes data) :
    fault = timeout := by
  have one := h.halts t fault waits
  have other := h.halts x timeout others
  split at one
  · next result => rw [if_pos result] at other; rw [one, other]
  · next result =>
    rw [if_neg result] at other
    obtain ⟨pn, offset, lanes, data, rfl⟩ := isTimeout
    exact absurd rfl (other pn offset lanes data)

theorem endingWf_halt (h : EndingWf a work s) (head : (j, rest) ∈ heads work) {t : Target}
    {fault : FaultRecord} (task : j.task = .halt t fault) :
    EndingWf a (rest ++ (takeHalt t fault s).2) (takeHalt t fault s).1 := by
  have pend := pending_of_head head
  rw [task] at pend
  have effects := effects_runTask (.halt t fault) h.idle
  have dbe := runTask_dbe (.halt t fault) s
  have counted := (heads_perm head).countP_eq (fun j => j.task == .takeEnd a)
  rw [List.countP_cons, if_neg (by rw [task]; simp)] at counted
  simp only [runTask] at effects dbe
  have told : ∀ {u more}, takeHalt t fault s = (u, more) → issuesNone s u → u.wq = s.wq →
      (∀ k ∈ more, k.task.isMark = false) →
      (∀ x pn offset lanes data, willHalt rest u x (.writeTimeout pn offset lanes data) ↔
        willHalt work s x (.writeTimeout pn offset lanes data)) → EndingWf a (rest ++ more) u := by
    intro u more e issues wq unmarked record
    rw [e] at effects dbe
    have same : ∀ task, task.isMark = true → (pending (rest ++ more) task ↔ pending rest task) :=
      same_of_marks unmarked
    have ends : ∀ b, pending (rest ++ more) (.takeEnd b) ↔ pending work (.takeEnd b) := by
      intro b
      rw [same _ rfl, pend]
      exact (or_iff_right nofun).symm
    refine ⟨effects.keeps_order h.order, (congrArg DeviceBus.access dbe).trans h.idle,
      fun id shown => (h.shown id (issues id shown)).imp_right (ends a).2, ?_,
      fun b hb => h.ends b ((ends b).1 hb),
      fun x f hf => h.halts x f ((pend _).2 (.inr ((same _ rfl).1 hf))),
      fun hb => wq ▸ h.owner ((ends a).1 hb), ?_⟩
    · rw [count_of_marks unmarked]
      have := h.once
      omega
    · have fails : ∀ e, willFail a (rest ++ more) e ↔ willFail a work e := fun e => by
        simp only [willFail, ends]
      rw [wq]
      refine matchFaults_of h.faults (sameFailing_of_mem (fun e he f => ⟨he, (fails e).2 f⟩)
        fun e he f => ⟨he, (fails e).1 f⟩) fun x pn offset lanes data => ?_
      rw [← record]
      simp only [willHalt, same (.halt _ _) rfl]
  obtain ⟨opened, e⟩ | ⟨notOpened, e⟩ := takeHalt_cases t fault s <;> rw [e]
  · refine told e (fun id shown => ?_) rfl (by simp [Task.isMark]) fun x pn offset lanes data => ?_
    · cases id <;> exact shown
    · simp only [willHalt, admission_setAdmission, pend]
      by_cases same : x = t
      · subst same
        rw [if_pos rfl]
        refine ⟨fun halted => ?_, fun halted => .inl ?_⟩
        · obtain halted | ⟨⟨⟩, -⟩ := halted
          exact .inr ⟨opened, .inl (by rw [Admission.halted.inj halted])⟩
        · obtain halted | ⟨-, p⟩ := halted
          · cases opened.symm.trans halted
          · exact congrArg _ (h.halt_unique ((pend _).2 (.inl rfl)) ((pend _).2 p) ⟨_, _, _, _, rfl⟩)
      · rw [if_neg same]
        refine or_congr_right (and_congr_right fun _ => (or_iff_right ?_).symm)
        rintro ⟨⟩
        exact same rfl
  · refine told e (issuesNone_refl s) rfl (by simp) fun x pn offset lanes data => ?_
    simp only [willHalt, pend]
    refine or_congr_right (and_congr_right fun opened => (or_iff_right ?_).symm)
    rintro ⟨⟩
    exact notOpened opened

theorem endingWf_job (result : a.result ≠ none) (head : (j, rest) ∈ heads work)
    (h : EndingWf a work s) : EndingWf a (rest ++ (runTask j.task s).2) (runTask j.task s).1 := by
  have waits : pending work j.task := (pending_of_head head _).2 (.inl rfl)
  have calm : ∀ {t more}, j.task.isMark = false → Undisturbed s t →
      (∀ k ∈ more, k.task.isMark = false) → Effects s t → t.dbe = s.dbe →
      EndingWf a (rest ++ more) t := by
    intro t more quiet undisturbed unmarked effects dbe
    refine h.of_undisturbed undisturbed (effects.keeps_order h.order)
      ((congrArg DeviceBus.access dbe).trans h.idle) (fun task mark => ?_) ?_
    · rw [same_of_marks unmarked task mark, pending_of_head head, or_iff_right]
      rintro rfl
      rw [mark] at quiet
      cases quiet
    · rw [count_of_marks unmarked, (heads_perm head).countP_eq (fun j => j.task == .takeEnd a),
        List.countP_cons]
      exact Nat.le_add_right _ _
  have effects := effects_runTask j.task h.idle
  have dbe := runTask_dbe j.task s
  cases task : j.task with
  | takeEnd b =>
    rw [task] at waits
    obtain rfl := h.ends b waits
    exact endingWf_takeEnd h result head task
  | halt t fault => exact endingWf_halt h head task
  | seeHalt t =>
    obtain ⟨undisturbed, unmarked⟩ := undisturbed_seeHalt t s
    rw [task] at effects dbe
    exact calm (by rw [task]; rfl) undisturbed unmarked effects dbe
  | offer n =>
    rw [task] at effects dbe
    refine calm (t := offer n s) (more := []) (by rw [task]; rfl)
      (undisturbed_of_issues (fun id shown => ?_) rfl rfl) (List.forall_mem_nil _) effects dbe
    cases id <;> exact shown

theorem endingWf_due {d : Due} (due : d ∈ s.departureDues) (h : EndingWf a work s) :
    EndingWf a (work ++ (runDue d s).2) (runDue d s).1 := by
  obtain ⟨updates, offers⟩ := updates_runDue (holdsFor_of_mem_departureDues due)
  have unmarked : ∀ k ∈ (runDue d s).2, k.task.isMark = false := by
    intro k hk
    have := offers k hk
    cases task : k.task <;> rw [task] at this <;> [cases this; cases this; rfl; rfl]
  exact h.of_undisturbed (undisturbed_runDue h.order.1 due) (updates.effects.keeps_order h.order)
    ((congrArg DeviceBus.access (runDue_dbe due)).trans h.idle) (same_of_marks unmarked)
    (count_of_marks unmarked).le

theorem endingWf_choice (n : Nat) (h : EndingWf a work s) : EndingWf a work { s with choices := n } :=
  h.of_undisturbed (undisturbed_of_issues (fun id shown => by cases id <;> exact shown) rfl rfl)
    h.order h.idle (fun _ _ => Iff.rfl) le_rfl

end

/-! ## Every step -/

theorem pending_watchJobs {s : State} {a : Access} {task : Task} (h : pending (s.watchJobs a) task) :
    (∃ n, task = .offer n)
      ∨ ∃ n, task = .halt a.target (.watch a.pn? a.address a.lanes a.data n) := by
  obtain ⟨j, hj, rfl⟩ := h
  obtain ⟨n, -, hj⟩ := List.mem_flatMap.1 hj
  unfold watchJobs at hj
  split at hj
  · obtain rfl | hj := List.mem_cons.1 hj
    · exact .inl ⟨_, rfl⟩
    · split at hj
      · rw [List.mem_singleton.1 hj]
        exact .inr ⟨n, rfl⟩
      · cases hj
  · cases hj

/-- What follows the owner's response: notices, and halts of the access's target. -/
theorem pending_endJobs_tail {s : State} {a : Access} {task : Task}
    (h : pending (s.endJobs a).tail task) : (∃ n, task = .offer n)
      ∨ (a.result = some .timeout ∧ task = .halt a.target a.fault)
      ∨ a.result = some .done ∧ ∃ n, task = .halt a.target (.watch a.pn? a.address a.lanes a.data n) := by
  obtain ⟨j, hj, rfl⟩ := h
  simp only [State.endJobs, List.tail_cons] at hj
  split at hj
  · next timeout =>
    rw [List.mem_singleton.1 hj]
    exact .inr (.inl ⟨timeout, rfl⟩)
  · next done =>
    obtain offer | halt := pending_watchJobs ⟨j, hj, rfl⟩
    · exact .inl offer
    · exact .inr (.inr ⟨done, halt⟩)
  · cases hj

theorem pending_endJobs {s : State} {a : Access} {task : Task} :
    pending (s.endJobs a) task ↔ .takeEnd a = task ∨ pending (s.endJobs a).tail task := by
  simp [pending, State.endJobs]

/-- The halt of a timeout is outstanding at the end of its access. -/
theorem pending_fault {s : State} {a : Access} (timeout : a.result = some .timeout) :
    pending (s.endJobs a) (.halt a.target a.fault) := by
  simp [pending, State.endJobs, timeout]

theorem fault_eq_writeTimeout {a : Access} {pn : PN} {offset : Offset} {lanes : Lanes}
    {data : LaneWord} (h : a.fault = .writeTimeout pn offset lanes data) : a.request = .entry pn := by
  unfold Access.fault at h
  split at h
  · next request => cases h; exact request
  · cases h
  · cases h

theorem fault_of_entry {a : Access} {pn : PN} (request : a.request = .entry pn) :
    a.fault = .writeTimeout pn a.address a.lanes a.data := by
  unfold Access.fault
  rw [request]

theorem countWatches_frame (a : Access) (s : State) : ∃ wu, countWatches a s = { s with wu := wu } := by
  unfold countWatches
  split
  · exact ⟨_, rfl⟩
  · exact ⟨s.wu, rfl⟩

theorem endingWf_start {s : State} {a : Access} (wf : OwnersWf s) (access : s.dbe.access = some a)
    (running : s.bc.state ≠ .clearing) :
    EndingWf a (s.endJobs a) (countWatches a (freeBus a s)) := by
  obtain ⟨order, flight, ⟨owner, only⟩, matched⟩ := id wf
  have freed := ((Effects.one (.free a s)).tail (.count a (freeBus a s))).keeps_order order
  obtain ⟨wu, e⟩ := countWatches_frame a (freeBus a s)
  rw [e] at freed ⊢
  obtain ⟨-, shown, -⟩ := owner a access
  have opened : s.admission a.target = .opened := (flight a access).1
  have told : pending (s.endJobs a) (.takeEnd a) := pending_endJobs.2 (.inl rfl)
  obtain ⟨recorded, failed⟩ := (failedMatchesFaults_iff order.1).1 matched
  have sound : ∀ e, .write e ∈ s.wq.entries → e.target = a.target → e.failed = false := by
    intro e he target
    refine Bool.eq_false_iff.2 fun fails => ?_
    obtain ⟨_, _, _, halted⟩ := failed e he fails
    cases opened.symm.trans (target ▸ halted)
  refine ⟨freed, rfl, fun id h => ?_, ?_, fun b hb => ?_, fun t fault hf => ?_,
    fun _ pn request => ?_, fun t pn offset lanes data halts => ?_, fun e he fails => ?_⟩
  · have before : shownIssued s id := by cases id <;> exact h
    obtain clearing | ⟨b, hb, rfl⟩ := only id before
    · exact absurd clearing running
    · obtain rfl := Option.some.inj (access.symm.trans hb)
      exact ⟨rfl, told⟩
  · have none : (s.endJobs a).tail.countP (fun j => j.task == .takeEnd a) = 0 := by
      refine List.countP_eq_zero.2 fun j hj same => ?_
      obtain ⟨_, offer⟩ | ⟨-, halt⟩ | ⟨-, _, halt⟩ := pending_endJobs_tail ⟨j, hj, beq_iff_eq.1 same⟩
      · cases offer
      · cases halt
      · cases halt
    have whole : s.endJobs a = ⟨a.request.owner, .takeEnd a⟩ :: (s.endJobs a).tail := rfl
    rw [whole, List.countP_cons, none]
    split <;> simp
  · obtain same | later := pending_endJobs.1 hb
    · exact (Task.takeEnd.inj same).symm
    · obtain ⟨_, offer⟩ | ⟨-, halt⟩ | ⟨-, _, halt⟩ := pending_endJobs_tail later
      · cases offer
      · cases halt
      · cases halt
  · have later := (pending_endJobs.1 hf).resolve_left nofun
    obtain ⟨_, offer⟩ | ⟨timeout, halt⟩ | ⟨done, _, halt⟩ := pending_endJobs_tail later
    · cases offer
    · rw [if_pos timeout]
      cases halt
      rfl
    · rw [if_neg (by rw [done]; nofun)]
      cases halt
      exact nofun
  · obtain ⟨e, he, name, target, -⟩ := entry_of_access wf access request
    exact ⟨e, he, name, fun _ => sound e he target⟩
  · obtain halted | ⟨-, waits⟩ := halts
    · obtain ⟨e, he, name, target, fails⟩ := recorded t pn offset lanes data halted
      exact ⟨e, he, name, target, .inl fails⟩
    · have later := (pending_endJobs.1 waits).resolve_left nofun
      obtain ⟨_, offer⟩ | ⟨timeout, halt⟩ | ⟨-, _, halt⟩ := pending_endJobs_tail later
      · cases offer
      · obtain ⟨rfl, fault⟩ := Task.halt.inj halt
        have request := fault_eq_writeTimeout fault.symm
        obtain ⟨e, he, rfl, target, -⟩ := entry_of_access wf access request
        exact ⟨e, he, rfl, target, .inr ⟨told, timeout, request⟩⟩
      · cases halt
  · obtain fails | ⟨-, timeout, request⟩ := fails
    · obtain ⟨offset, lanes, data, halted⟩ := failed e he fails
      exact ⟨offset, lanes, data, .inl halted⟩
    · obtain ⟨x, hx, name, target, -⟩ := entry_of_access wf access request
      obtain rfl := write_ext order.1 he hx name.symm
      refine ⟨a.address, a.lanes, a.data, .inr ⟨target ▸ opened, ?_⟩⟩
      rw [target, ← fault_of_entry request]
      exact pending_fault timeout

theorem endAccess_keeps_owners {s : State} {a : Access} (wf : OwnersWf s)
    (access : s.dbe.access = some a) (held : a.phase = .hold) : OwnersWf (endAccess a s) := by
  obtain ⟨order, -, ⟨owner, only⟩, matched⟩ := id wf
  obtain ⟨-, -, result⟩ := owner a access
  unfold endAccess
  split
  · next clearing =>
    refine ⟨(EndEffect.free a s).keeps_order order, fun _ h => (nomatch h),
      ⟨fun _ h => (nomatch h), fun _ _ => .inl clearing⟩, ?_⟩
    exact failedMatchesFaults_of_same matched order.1 rfl rfl
  · next running =>
    have ended := (responds_takeJobs _ _).keeps (P := EndingWf a) (fun n => endingWf_choice n)
      (fun head => endingWf_job (result.2 held) head) endingWf_due
      (endingWf_start wf access running)
    refine ⟨ended.order, fun b access => ?_, accessHasOwner_of_idle ended.idle fun id shown => ?_, ?_⟩
    · rw [ended.idle] at access
      cases access
    · exact not_pending_nil _ (ended.shown id shown).2
    · rw [failedMatchesFaults_iff ended.order.1]
      refine matchFaults_of ended.faults (sameFailing_of_mem
        (fun e he fails => ⟨he, fails.resolve_right fun p => not_pending_nil _ p.1⟩)
        fun e he fails => ⟨he, .inl fails⟩) fun t pn offset lanes data => ?_
      exact ⟨.inl, fun halts => halts.resolve_right fun p => not_pending_nil _ p.2⟩

/-- Settles O60: the updates keep the owners of the access and of the fault records; the end of an
access keeps what its outstanding responses will put right. -/
theorem stepKeepsOwnersWf : Obligations.StepKeepsOwnersWf := by
  unfold Obligations.StepKeepsOwnersWf
  intro s t wf h
  have kept : ∀ {u}, Updates s u → OwnersWf u := by
    intro u updates
    induction updates with
    | refl => exact wf
    | tail _ last ih => exact last.keeps_owners ih
  obtain updates | ⟨u, a, updates, access, held, rfl⟩ := step_cases h
  · exact kept updates
  · exact endAccess_keeps_owners (kept updates) access held

end Sys2Proof.Machine
end

section
/-! The words of the registers as numbers: the fields of a register, each placed at its lowest bit, add
up, and a field is read back out of the sum (R153). -/

namespace Sys2Proof.Machine

/-! ## Fields add up -/

theorem ofNat_or_field {low lo : Nat} (fits : low < 2 ^ lo) (k : Nat) :
    BitVec.ofNat 32 low ||| BitVec.ofNat 32 (k * 2 ^ lo) = BitVec.ofNat 32 (low + k * 2 ^ lo) := by
  have sum : low + k * 2 ^ lo = k * 2 ^ lo ||| low := by
    rw [Nat.mul_comm, Nat.add_comm, Nat.two_pow_add_eq_or_of_lt fits]
  rw [sum, BitVec.ofNat_or, BitVec.or_comm]

theorem numberAt_eq (n lo : Nat) : numberAt n lo = BitVec.ofNat 32 (n * 2 ^ lo) := by
  apply BitVec.eq_of_toNat_eq
  simp [numberAt, Nat.shiftLeft_eq]

theorem atBit_eq {n : Nat} (value : BitVec n) (lo : Nat) :
    atBit value lo = BitVec.ofNat 32 (value.toNat * 2 ^ lo) := by
  apply BitVec.eq_of_toNat_eq
  simp [atBit, Nat.shiftLeft_eq]

theorem flagAt_eq (b : Bool) (lo : Nat) : flagAt b lo = BitVec.ofNat 32 (b.toNat * 2 ^ lo) := by
  rw [flagAt, atBit_eq, BitVec.toNat_ofBool]

theorem append_eq_ofNat (high low : BitVec 16) :
    (high ++ low : Word) = BitVec.ofNat 32 (low.toNat + high.toNat * 2 ^ 16) := by
  apply BitVec.eq_of_toNat_eq
  have := high.isLt
  have := low.isLt
  rw [BitVec.toNat_append, Nat.shiftLeft_eq, Nat.mul_comm,
    ← Nat.two_pow_add_eq_or_of_lt low.isLt, BitVec.toNat_ofNat]
  omega

/-! ## A field is read back -/

theorem extract_ofNat {whole lo n field : Nat} (h : whole / 2 ^ lo % 2 ^ n = field)
    (fits : whole < 2 ^ 32) : ((BitVec.ofNat 32 whole).extractLsb' lo n).toNat = field := by
  rw [BitVec.extractLsb'_toNat, BitVec.toNat_ofNat, Nat.mod_eq_of_lt fits, Nat.shiftRight_eq_div_pow, h]

theorem getLsbD_ofNat {whole k : Nat} {b : Bool} (h : whole / 2 ^ k % 2 = b.toNat)
    (fits : whole < 2 ^ 32) : (BitVec.ofNat 32 whole).getLsbD k = b := by
  rw [← BitVec.testBit_toNat, BitVec.toNat_ofNat, Nat.mod_eq_of_lt fits, Nat.testBit_eq_decide_div_mod_eq, h]
  cases b <;> rfl

end Sys2Proof.Machine
end

section
/-! What the registers show (chapter 12): the register at each offset, and the fields of its word. -/

namespace Sys2Proof.Machine

/-! ## The register at an offset -/

theorem readRegister_comparator (s : State) (n : ComparatorNo) :
    s.readRegister (BitVec.ofNat 8 (0x30 + 4 * n.val)) = s.wu[n].word := by
  fin_cases n <;> rfl

theorem readRegister_result (s : State) (k : SlotNo) :
    s.readRegister (BitVec.ofNat 8 (0x44 + 16 * k.val)) = s.fs[k].word := by
  fin_cases k <;> rfl

theorem readRegister_window (s : State) (t : Target) :
    s.readRegister (BitVec.ofNat 8 (0x80 + 16 * t.val)) = s.targets[t].staged.windowWord := by
  fin_cases t <;> rfl

theorem readRegister_timing (s : State) (t : Target) :
    s.readRegister (BitVec.ofNat 8 (0x84 + 16 * t.val)) = s.targets[t].staged.timingWord := by
  fin_cases t <;> rfl

theorem readRegister_targetStatus (s : State) (t : Target) :
    s.readRegister (BitVec.ofNat 8 (0x88 + 16 * t.val)) = s.targetStatus t := by
  fin_cases t <;> rfl

theorem readRegister_faultDetail (s : State) (t : Target) :
    s.readRegister (BitVec.ofNat 8 (0x8C + 16 * t.val)) = s.faultDetail t := by
  fin_cases t <;> rfl

/-- Write-only registers, unused words and offsets that are no multiple of 4 read zero (R87). -/
theorem readRegister_zero {s : State} {offset : BitVec 8} (h : offset.toNat % 4 ≠ 0
    ∨ offset = 0x24#8 ∨ (0x40 ≤ offset.toNat ∧ offset.toNat < 0x80 ∧ offset.toNat % 16 ≠ 4)) :
    s.readRegister offset = 0 := by
  obtain unaligned | rfl | ⟨low, high, unused⟩ := h
  · exact if_pos unaligned
  · rfl
  · by_cases unaligned : offset.toNat % 4 ≠ 0
    · exact if_pos unaligned
    · have named : ∀ x : BitVec 8, x.toNat < 0x40 → offset ≠ x := by
        rintro x hx rfl
        omega
      unfold State.readRegister
      rw [if_neg unaligned]
      simp only [named _ (by decide : (0x00#8).toNat < 0x40), named _ (by decide : (0x04#8).toNat < 0x40),
        named _ (by decide : (0x08#8).toNat < 0x40), named _ (by decide : (0x0C#8).toNat < 0x40),
        named _ (by decide : (0x10#8).toNat < 0x40), named _ (by decide : (0x14#8).toNat < 0x40),
        named _ (by decide : (0x18#8).toNat < 0x40), named _ (by decide : (0x1C#8).toNat < 0x40),
        named _ (by decide : (0x20#8).toNat < 0x40), named _ (by decide : (0x24#8).toNat < 0x40),
        named _ (by decide : (0x28#8).toNat < 0x40), named _ (by decide : (0x2C#8).toNat < 0x40),
        if_false, if_neg (Nat.not_lt.2 low), if_pos high, if_neg unused]

/-! ## The words as sums of their fields -/

theorem bridgeStatus_eq {s : State} (entries : s.wq.entries.length ≤ 8)
    (records : s.nq.records.length ≤ 16) : s.bridgeStatus = BitVec.ofNat 32 (s.bc.state.code
      + s.dbe.access.isSome.toNat * 2 ^ 2 + s.interruptLine.toNat * 2 ^ 3
      + s.wq.entries.length * 2 ^ 4 + s.hif.heldCode * 2 ^ 8 + s.nq.records.length * 2 ^ 10
      + s.fs[0].refused.toNat * 2 ^ 16 + s.fs[1].refused.toNat * 2 ^ 17
      + s.fs[2].refused.toNat * 2 ^ 18 + s.fs[3].refused.toNat * 2 ^ 19) := by
  have state : s.bc.state.code < 4 := by cases s.bc.state <;> decide
  have held : s.hif.heldCode < 4 := by
    unfold HostInterface.heldCode
    split <;> [omega; omega; (split <;> omega)]
  have := s.dbe.access.isSome.toNat_le
  have := s.interruptLine.toNat_le
  have := s.fs[0].refused.toNat_le
  have := s.fs[1].refused.toNat_le
  have := s.fs[2].refused.toNat_le
  have := s.fs[3].refused.toNat_le
  simp only [State.bridgeStatus, numberAt_eq, flagAt_eq]
  rw [Nat.pow_zero, Nat.mul_one]
  iterate 9 rw [ofNat_or_field (by omega)]

theorem commandStatus_eq (c : CommandStatus) : c.word = BitVec.ofNat 32 (c.command.toNat
    + c.result.code * 2 ^ 8 + c.detail.code * 2 ^ 11 + c.detail.number?.toNat * 2 ^ 16) := by
  have := c.command.isLt
  have : c.result.code < 8 := by cases c.result <;> decide
  have : c.detail.code < 32 := by cases c.detail <;> simp [Detail.code]
  simp only [CommandStatus.word, numberAt_eq, atBit_eq]
  rw [Nat.pow_zero, Nat.mul_one]
  iterate 3 rw [ofNat_or_field (by omega)]

theorem postingStatus_eq (q : WriteQueue) :
    q.word = BitVec.ofNat 32 (q.nextPn.toNat + q.oldestOutstanding.toNat * 2 ^ 16) := by
  have := q.nextPn.isLt
  simp only [WriteQueue.word, atBit_eq]
  rw [Nat.pow_zero, Nat.mul_one, ofNat_or_field (by omega)]

theorem comparatorWord_eq (c : Comparator) : c.word = BitVec.ofNat 32 (c.offset.toNat
    + c.size.code * 2 ^ 16 + c.kind.code * 2 ^ 18
    + (if c.armed then c.remaining else c.count).toNat * 2 ^ 20
    + (c.action == .halt).toNat * 2 ^ 24 + c.repeats.toNat * 2 ^ 25 + c.armed.toNat * 2 ^ 31) := by
  have := c.offset.isLt
  have : c.size.code < 4 := by cases c.size <;> decide
  have : c.kind.code < 4 := by cases c.kind <;> decide
  have := (if c.armed then c.remaining else c.count).isLt
  have := (c.action == .halt).toNat_le
  have := c.repeats.toNat_le
  simp only [Comparator.word, numberAt_eq, flagAt_eq, atBit_eq]
  rw [Nat.pow_zero, Nat.mul_one]
  iterate 6 rw [ofNat_or_field (by omega)]

/-! ## Bridge registers (O10) -/

theorem oldestOutstanding_cases (q : WriteQueue) :
    (q.entries = [] → q.oldestOutstanding = q.nextPn)
      ∧ ∀ e rest, q.entries = e :: rest → q.oldestOutstanding = e.pn := by
  constructor
  · intro empty
    simp [WriteQueue.oldestOutstanding, empty]
  · intro e rest entries
    simp [WriteQueue.oldestOutstanding, entries]

theorem readRegister_postingStatus (s : State) :
    (s.readRegister 0x10#8).extractLsb' 16 16 = s.wq.oldestOutstanding
      ∧ (s.readRegister 0x10#8).extractLsb' 0 16 = s.wq.nextPn := by
  have word : s.readRegister 0x10#8 = s.wq.word := rfl
  have := s.wq.nextPn.isLt
  have := s.wq.oldestOutstanding.isLt
  rw [word, postingStatus_eq]
  exact ⟨BitVec.eq_of_toNat_eq (extract_ofNat (by omega) (by omega)),
    BitVec.eq_of_toNat_eq (extract_ofNat (by omega) (by omega))⟩

theorem detailNumbers_eq (d : Detail) : detailNumbers d = (d.code, d.number?.toNat) := by
  cases d with
  | overlap t => simp [detailNumbers, Detail.code, Detail.number?]; omega
  | _ => rfl

theorem commandResultNumber_eq (r : CommandResult) : commandResultNumber r = r.code := by
  cases r <;> rfl

theorem readRegister_commandStatus (s : State) :
    (s.readRegister 0x0C#8).extractLsb' 0 8 = s.bc.status.command
      ∧ ((s.readRegister 0x0C#8).extractLsb' 8 3).toNat = commandResultNumber s.bc.status.result
      ∧ ((s.readRegister 0x0C#8).extractLsb' 11 5).toNat = (detailNumbers s.bc.status.detail).1
      ∧ ((s.readRegister 0x0C#8).extractLsb' 16 16).toNat = (detailNumbers s.bc.status.detail).2 := by
  have word : s.readRegister 0x0C#8 = s.bc.status.word := rfl
  generalize s.bc.status = c at word
  have := c.command.isLt
  have : c.result.code < 8 := by cases c.result <;> decide
  have : c.detail.code < 32 := by cases c.detail <;> simp [Detail.code]
  have := c.detail.number?.isLt
  rw [word, commandStatus_eq, commandResultNumber_eq, detailNumbers_eq]
  exact ⟨BitVec.eq_of_toNat_eq (extract_ofNat (by omega) (by omega)),
    extract_ofNat (by omega) (by omega), extract_ofNat (by omega) (by omega),
    extract_ofNat (by omega) (by omega)⟩

theorem readRegister_bridgeStatus {s : State} (entries : s.wq.entries.length ≤ 8)
    (records : s.nq.records.length ≤ 16) : let w := s.readRegister 0x04#8
      w.extractLsb' 0 2 = BitVec.ofNat 2 s.bc.state.code
      ∧ w.getLsbD 2 = s.dbe.access.isSome ∧ w.getLsbD 3 = s.interruptLine
      ∧ (w.extractLsb' 4 4).toNat = s.wq.entries.length
      ∧ w.extractLsb' 8 2 = BitVec.ofNat 2 s.hif.heldCode
      ∧ (w.extractLsb' 10 5).toNat = s.nq.records.length
      ∧ (∀ k : SlotNo, w.getLsbD (16 + k.val) = s.fs[k].refused)
      ∧ w.getLsbD 15 = false ∧ w.extractLsb' 20 12 = 0 := by
  have word : s.readRegister 0x04#8 = s.bridgeStatus := rfl
  have state : s.bc.state.code < 4 := by cases s.bc.state <;> decide
  have held : s.hif.heldCode < 4 := by
    unfold HostInterface.heldCode
    split <;> [omega; omega; (split <;> omega)]
  have := s.dbe.access.isSome.toNat_le
  have := s.interruptLine.toNat_le
  have := s.fs[0].refused.toNat_le
  have := s.fs[1].refused.toNat_le
  have := s.fs[2].refused.toNat_le
  have := s.fs[3].refused.toNat_le
  have unset : false.toNat = 0 := rfl
  have unused : (0 : BitVec 12).toNat = 0 := rfl
  rw [word, bridgeStatus_eq entries records]
  refine ⟨BitVec.eq_of_toNat_eq ?_, getLsbD_ofNat ?_ ?_, getLsbD_ofNat ?_ ?_, extract_ofNat ?_ ?_,
    BitVec.eq_of_toNat_eq ?_, extract_ofNat ?_ ?_, fun k => ?_, getLsbD_ofNat (b := false) ?_ ?_,
    BitVec.eq_of_toNat_eq (extract_ofNat ?_ ?_)⟩
  case refine_1 => rw [extract_ofNat rfl (by omega), BitVec.toNat_ofNat]; omega
  case refine_8 => rw [extract_ofNat rfl (by omega), BitVec.toNat_ofNat]; omega
  case refine_11 => fin_cases k <;> refine getLsbD_ofNat ?_ ?_ <;> dsimp <;> omega
  all_goals omega

theorem readRegister_comparatorWord (s : State) (n : ComparatorNo) : let c := s.wu[n]
    s.readRegister (BitVec.ofNat 8 (0x30 + 4 * n.val)) = BitVec.ofNat 32 (c.offset.toNat
      + c.size.code * 2 ^ 16 + c.kind.code * 2 ^ 18
      + (if c.armed then c.remaining.toNat else c.count.toNat) * 2 ^ 20
      + (if c.action = .halt then 2 ^ 24 else 0) + (if c.repeats then 2 ^ 25 else 0)
      + if c.armed then 2 ^ 31 else 0) := by
  intro c
  rw [readRegister_comparator, comparatorWord_eq]
  have action : (c.action == .halt).toNat * 2 ^ 24 = if c.action = .halt then 2 ^ 24 else 0 := by
    cases c.action <;> rfl
  have repeats : c.repeats.toNat * 2 ^ 25 = if c.repeats then 2 ^ 25 else 0 := by
    cases c.repeats <;> rfl
  have armed : c.armed.toNat * 2 ^ 31 = if c.armed then 2 ^ 31 else 0 := by cases c.armed <;> rfl
  rw [action, repeats, armed, apply_ite BitVec.toNat]

/-- Settles O10: each register is the sum of its fields, from which each field is read back. -/
theorem bridgeRegistersShowState : Obligations.BridgeRegistersShowState := by
  unfold Obligations.BridgeRegistersShowState
  refine ⟨oldestOutstanding_cases, readRegister_postingStatus, fun s => ?_,
    fun s => ?_, readRegister_commandStatus, fun s => ⟨rfl, rfl⟩, fun s n => ?_,
    fun s offset => readRegister_zero⟩
  · intro w entries records
    obtain ⟨state, access, line, length, held, notices, refused, unused⟩ :=
      readRegister_bridgeStatus entries records
    refine ⟨state.trans ?_, access, line, length, held.trans ?_, notices, refused, unused⟩
    · cases s.bc.state <;> rfl
    · unfold HostInterface.heldCode
      cases s.hif.held with
      | none => rfl
      | some a => cases a with
        | write w => rfl
        | read r => cases h : r.phase <;> simp [h]
  · show atBit s.wq.lastFenceRetired 0 = _
    rw [atBit, BitVec.shiftLeft_zero]
  · refine (readRegister_comparatorWord s n).trans ?_
    cases s.wu[n].size <;> cases s.wu[n].kind <;> rfl

end Sys2Proof.Machine
end

section
/-! What the Notice Head, Result, Target Status and Fault Detail registers show of a notice, a slot and
a fault record (sections 10.5, 6.5, 1.4 and 12.4). -/

namespace Sys2Proof.Machine

/-! ## Codes -/

theorem lanesNumber_eq (l : Lanes) : lanesNumber l = l.code := by cases l <;> rfl

theorem causeNumber_eq (c : NoticeCause) : causeNumber c = c.code := by cases c <;> rfl

theorem accessKindNumber_eq (k : AccessClass) : accessKindNumber k = k.code := by cases k <;> rfl

theorem slotResultNumber_eq (r : SlotResult) : slotResultNumber r = r.code := by cases r <;> rfl

theorem lanes_code_lt (l : Lanes) : l.code < 4 := by cases l <;> decide

theorem cause_code_lt (c : NoticeCause) : c.code < 8 := by cases c <;> decide

theorem kind_code_lt (k : AccessClass) : k.code < 4 := by cases k <;> decide

/-! ## The head record (O11) -/

/-- The fields of a record fit their places in Notice Head A (section 12.4). -/
theorem fields_bounds (b : RecordBody) : b.code < 16 ∧ b.fields.target < 16 ∧ b.fields.index < 16
    ∧ b.fields.cause < 16 ∧ b.fields.accessKind < 4 ∧ b.fields.lanes < 4 := by
  have target : ∀ t : Target, t.val < 16 := fun t => by omega
  have slot : ∀ k : SlotNo, k.val < 16 := fun k => by omega
  have cause : ∀ c : NoticeCause, c.code < 16 := fun c => by have := cause_code_lt c; omega
  cases b with
  | overflow count => simp [RecordBody.code, overflowCode, RecordBody.fields]
  | notice n =>
    cases n <;>
      simp only [RecordBody.code, Notice.code, RecordBody.fields, target, slot, cause, lanes_code_lt,
        kind_code_lt, Nat.reduceLT, and_self, true_and, and_true]
    case fetchFailed k t c =>
      cases t with
      | none => decide
      | some t => exact target t

/-- The three words of a record, its fields placed as section 12.4 gives them. -/
theorem noticeHead_eq {q : NoticeQueue} {r : NoticeRecord} {rest : List NoticeRecord}
    (h : q.records = r :: rest) : let f := r.body.fields
    q.headA = BitVec.ofNat 32 (r.sequence.toNat + r.body.code * 2 ^ 8 + f.target * 2 ^ 12
        + f.index * 2 ^ 16 + f.cause * 2 ^ 20 + f.accessKind * 2 ^ 24 + f.lanes * 2 ^ 26
        + f.flag.toNat * 2 ^ 28)
      ∧ q.headB = f.data ++ f.offset
      ∧ q.headC = BitVec.ofNat 32 (f.pn.toNat + f.count * 2 ^ 16) := by
  intro f
  have head : q.records.head? = some r := by rw [h]; rfl
  obtain ⟨code, target, index, cause, kind, lanes⟩ := fields_bounds r.body
  have := r.sequence.isLt
  have := f.offset.isLt
  have := f.pn.isLt
  refine ⟨?_, ?_, ?_⟩
  · simp only [NoticeQueue.headA, head, numberAt_eq, flagAt_eq, atBit_eq]
    rw [Nat.pow_zero, Nat.mul_one]
    iterate 7 rw [ofNat_or_field (by omega)]
  · simp only [NoticeQueue.headB, head, atBit_eq]
    rw [Nat.pow_zero, Nat.mul_one, ofNat_or_field (by omega), append_eq_ofNat]
  · simp only [NoticeQueue.headC, head, numberAt_eq, atBit_eq]
    rw [Nat.pow_zero, Nat.mul_one, ofNat_or_field (by omega)]

theorem noticeHead_empty {q : NoticeQueue} (h : q.records = []) :
    q.headA = 0 ∧ q.headB = 0 ∧ q.headC = 0 := by
  simp [NoticeQueue.headA, NoticeQueue.headB, NoticeQueue.headC, h]

/-! ## The slots -/

theorem laneWord_toNat (high low : Byte) : (laneWord high low).toNat = low.toNat + high.toNat * 2 ^ 8 := by
  rw [laneWord, BitVec.toNat_append, Nat.shiftLeft_eq, Nat.mul_comm,
    ← Nat.two_pow_add_eq_or_of_lt low.isLt, Nat.add_comm, Nat.mul_comm]

theorem laneWord_bytes (data : LaneWord) : laneWord (highByte data) (lowByte data) = data := by
  apply BitVec.eq_of_toNat_eq
  have := data.isLt
  rw [laneWord_toNat, highByte, lowByte, BitVec.extractLsb'_toNat, BitVec.extractLsb'_toNat]
  simp only [Nat.shiftRight_eq_div_pow]
  omega

theorem bytes_toNat (data : LaneWord) :
    (lowByte data).toNat + (highByte data).toNat * 2 ^ 8 = data.toNat := by
  rw [← laneWord_toNat, laneWord_bytes]

/-- The word of a slot that holds a request (R97). -/
theorem slotWord_present {r : FetchSlot} (h : r.state.holdsRequest = true) :
    r.word = BitVec.ofNat 32 (r.state.code + 0 * 2 ^ 4 + r.target.val * 2 ^ 8
      + lanesNumber r.lanes * 2 ^ 12 + (if r.lowHalfDone then 2 ^ 14 else 0) + 0 * 2 ^ 16) := by
  have := lanes_code_lt r.lanes
  have low : (if r.lowHalfDone then 2 ^ 14 else 0) = r.lowHalfDone.toNat * 2 ^ 14 := by
    cases r.lowHalfDone <;> rfl
  rw [low, lanesNumber_eq]
  have word : r.word = numberAt r.state.code 0 ||| numberAt r.target.val 8 ||| numberAt r.lanes.code 12
      ||| flagAt r.lowHalfDone 14 := by
    cases state : r.state <;> simp only [FetchSlot.word, state]
    all_goals rw [state] at h; cases h
  have state : r.state.code < 8 := by cases r.state <;> decide
  simp only [word, numberAt_eq, flagAt_eq, Nat.pow_zero, Nat.mul_one]
  iterate 3 rw [ofNat_or_field (by omega)]
  rfl

theorem slotWord_done {r : FetchSlot} (h : r.state = .done) :
    r.word = BitVec.ofNat 32 (4 + slotResultNumber r.result * 2 ^ 4 + r.target.val * 2 ^ 8
      + lanesNumber r.lanes * 2 ^ 12 + 0 + r.data.toNat * 2 ^ 16) := by
  have := lanes_code_lt r.lanes
  have : r.result.code < 8 := by cases r.result <;> decide
  have bytes := bytes_toNat r.data
  have := (lowByte r.data).isLt
  rw [slotResultNumber_eq, lanesNumber_eq]
  simp only [FetchSlot.word, h, numberAt_eq, atBit_eq, SlotState.code]
  iterate 5 rw [ofNat_or_field (by omega)]
  congr 1
  omega

theorem slotWord_failed {r : FetchSlot} (h : r.state = .failed) :
    r.word = BitVec.ofNat 32 (5 + slotResultNumber r.result * 2 ^ 4 + r.shownTarget * 2 ^ 8
      + lanesNumber r.lanes * 2 ^ 12 + 0 + 0 * 2 ^ 16) := by
  have := lanes_code_lt r.lanes
  have : r.result.code < 8 := by cases r.result <;> decide
  have : r.shownTarget < 8 := by
    unfold FetchSlot.shownTarget
    split <;> omega
  rw [slotResultNumber_eq, lanesNumber_eq]
  simp only [FetchSlot.word, h, numberAt_eq, SlotState.code]
  iterate 3 rw [ofNat_or_field (by omega)]
  rfl

/-- Settles O11: the head record's fields and a slot's word, one equation each, by kind and state. -/
theorem noticeHeadAndResultShowRecords : Obligations.NoticeHeadAndResultShowRecords := by
  unfold Obligations.NoticeHeadAndResultShowRecords
  refine ⟨fun s => noticeHead_empty, fun s r rest => ?_, fun s k => ?_⟩
  · intro shows records
    obtain ⟨a, b, c⟩ := noticeHead_eq records
    have shown : ∀ (body : RecordBody) (f : NoticeFields), r.body = body → body.fields = f →
        shows body.code f.target f.index f.cause f.accessKind f.lanes f.flag f.offset f.data f.pn
          f.count := by
      rintro body f rfl rfl
      refine ⟨a.trans ?_, b, c⟩
      cases r.body.fields.flag <;> rfl
    simp only [causeNumber_eq, lanesNumber_eq, accessKindNumber_eq]
    split <;> rename_i body <;> have fields := shown _ _ body rfl
    case h_5 k t cause =>
      cases t <;> exact fields
    all_goals exact fields
  · intro r shows
    have word := readRegister_result s k
    split <;> rename_i state
    · rw [word, FetchSlot.word, state]
    all_goals refine word.trans ?_
    · exact (slotWord_present (by rw [state]; rfl)).trans (by rw [state]; rfl)
    · exact (slotWord_present (by rw [state]; rfl)).trans (by rw [state]; rfl)
    · exact (slotWord_present (by rw [state]; rfl)).trans (by rw [state]; rfl)
    · exact slotWord_done state
    · exact slotWord_failed state

/-! ## Target Status and Fault Detail (O12) -/

/-- The fault fields of Target Status, zero without a record (R13, R157). -/
structure FaultFields where
  cause : Nat := 0
  lanes : Nat := 0
  number : Nat := 0
  pn : PN := 0

def FaultRecord.fields : FaultRecord → FaultFields
  | .writeTimeout pn _ lanes _ => { cause := 1, lanes := lanes.code, pn := pn }
  | .readTimeout _ lanes => { cause := 2, lanes := lanes.code }
  | .fetchTimeout _ lanes slot => { cause := 3, lanes := lanes.code, number := slot.val }
  | .watch pn _ lanes _ n => { cause := 4, lanes := lanes.code, number := n.val, pn := pn.getD 0 }

def Admission.faultFields (a : Admission) : FaultFields := (a.fault?.map (·.fields)).getD {}

theorem faultFields_bounds (a : Admission) :
    a.faultFields.cause < 8 ∧ a.faultFields.lanes < 4 ∧ a.faultFields.number < 4 := by
  cases a with
  | halted f =>
    cases f <;> exact ⟨by simp [Admission.faultFields, Admission.fault?, FaultRecord.fields],
      lanes_code_lt _, by simp [Admission.faultFields, Admission.fault?, FaultRecord.fields]⟩
  | _ => exact ⟨by decide, by decide, by decide⟩

theorem faultStatus_eq (a : Admission) : (a.fault?.map (·.statusWord)).getD 0 = BitVec.ofNat 32
    ((a.faultFields.cause + a.faultFields.lanes * 2 ^ 4 + a.faultFields.number * 2 ^ 6
      + a.faultFields.pn.toNat * 2 ^ 8) * 2 ^ 8) := by
  cases a with
  | halted f =>
    have sum : ∀ cause lanes number pn : Nat, cause < 8 → lanes < 4 → number < 4 →
        BitVec.ofNat 32 (cause * 2 ^ 8) ||| BitVec.ofNat 32 (lanes * 2 ^ 12)
            ||| BitVec.ofNat 32 (number * 2 ^ 14) ||| BitVec.ofNat 32 (pn * 2 ^ 16)
          = BitVec.ofNat 32 ((cause + lanes * 2 ^ 4 + number * 2 ^ 6 + pn * 2 ^ 8) * 2 ^ 8) := by
      intro cause lanes number pn _ _ _
      iterate 3 rw [ofNat_or_field (by omega)]
      exact congrArg _ (by omega)
    obtain ⟨cause, lanes, number⟩ := faultFields_bounds (.halted f)
    rw [← sum _ _ _ _ cause lanes number]
    cases f <;> simp [Admission.faultFields, Admission.fault?, FaultRecord.fields,
      FaultRecord.statusWord, numberAt_eq, atBit_eq]
  | _ => simp [Admission.faultFields, Admission.fault?]

theorem targetStatus_eq {s : State} {t : Target} (count : s.heldAttentionCount t ≤ 15) :
    let f := (s.admission t).faultFields
    s.targetStatus t = BitVec.ofNat 32 ((s.admission t).code + s.dbe.recovery[t].isSome.toNat * 2 ^ 2
      + s.heldAttentionCount t * 2 ^ 4
      + (f.cause + f.lanes * 2 ^ 4 + f.number * 2 ^ 6 + f.pn.toNat * 2 ^ 8) * 2 ^ 8) := by
  have : (s.admission t).code < 3 := by cases s.admission t <;> simp [Admission.code]
  have := s.dbe.recovery[t].isSome.toNat_le
  simp only [State.targetStatus, faultStatus_eq, numberAt_eq, flagAt_eq, Nat.pow_zero, Nat.mul_one]
  iterate 3 rw [ofNat_or_field (by omega)]

/-- Target Status, field by field. -/
theorem targetStatus_fields {s : State} {t : Target} (count : s.heldAttentionCount t ≤ 15) :
    let w := s.targetStatus t
    let f := (s.admission t).faultFields
    (w.extractLsb' 0 2).toNat = (s.admission t).code ∧ w.getLsbD 2 = s.dbe.recovery[t].isSome
      ∧ (w.extractLsb' 4 4).toNat = s.heldAttentionCount t ∧ (w.extractLsb' 8 3).toNat = f.cause
      ∧ (w.extractLsb' 12 2).toNat = f.lanes ∧ (w.extractLsb' 14 2).toNat = f.number
      ∧ w.extractLsb' 16 16 = f.pn
      ∧ (w.extractLsb' 8 24).toNat = f.cause + f.lanes * 2 ^ 4 + f.number * 2 ^ 6 + f.pn.toNat * 2 ^ 8 := by
  have : (s.admission t).code < 3 := by cases s.admission t <;> simp [Admission.code]
  have := s.dbe.recovery[t].isSome.toNat_le
  obtain ⟨cause, lanes, number⟩ := faultFields_bounds (s.admission t)
  have word := targetStatus_eq count
  dsimp only at word ⊢
  rw [word]
  generalize (s.admission t).faultFields = f at cause lanes number ⊢
  have := f.pn.isLt
  exact ⟨extract_ofNat (by omega) (by omega), getLsbD_ofNat (by omega) (by omega),
    extract_ofNat (by omega) (by omega), extract_ofNat (by omega) (by omega),
    extract_ofNat (by omega) (by omega), extract_ofNat (by omega) (by omega),
    BitVec.eq_of_toNat_eq (extract_ofNat (by omega) (by omega)), extract_ofNat (by omega) (by omega)⟩

theorem detail_eq (offset : Offset) (data : LaneWord) :
    atBit offset 0 ||| atBit data 16 = data ++ offset := by
  have := offset.isLt
  simp only [atBit_eq, Nat.pow_zero, Nat.mul_one]
  rw [ofNat_or_field (by omega), append_eq_ofNat]

/-- Settles O12: Target Status is the sum of its fields, the fault's zero without a record. -/
theorem targetStatusShowsFaultRecord : Obligations.TargetStatusShowsFaultRecord := by
  unfold Obligations.TargetStatusShowsFaultRecord
  intro s t
  rw [readRegister_targetStatus, readRegister_faultDetail]
  intro w d shows bounded
  have count : s.heldAttentionCount t ≤ 15 := by
    unfold State.heldAttentionCount
    cases record : s.au[t].record with
    | none => simp
    | some r => exact bounded r record
  obtain ⟨admission, recovery, held, cause, lanes, number, pn, fault⟩ := targetStatus_fields count
  have detail : d = ((s.admission t).fault?.map (·.detailWord)).getD 0 := rfl
  have shown : ∀ f, s.admission t = .halted f → ∀ (c : BitVec 3) (l : Lanes), c.toNat = f.fields.cause →
      f.fields.lanes = l.code → ∀ offset data, f.detailWord = data ++ offset →
      shows c l f.fields.number f.fields.pn offset data := by
    intro f halted c l hc hl offset data word
    rw [halted] at admission cause lanes number pn detail
    exact ⟨BitVec.eq_of_toNat_eq admission, BitVec.eq_of_toNat_eq (cause.trans hc.symm),
      lanes.trans (hl.trans (lanesNumber_eq l).symm), number, pn, detail.trans word⟩
  have idle : ∀ a, s.admission t = a → a.fault? = none → ∀ c : BitVec 2, c.toNat = a.code →
      w.extractLsb' 0 2 = c ∧ w.extractLsb' 8 24 = 0 ∧ d = 0 := by
    intro a ha none c hc
    rw [ha] at admission fault detail
    have zero : a.faultFields = {} := by rw [Admission.faultFields, none]; rfl
    rw [zero] at fault
    refine ⟨BitVec.eq_of_toNat_eq (admission.trans hc.symm), BitVec.eq_of_toNat_eq fault, ?_⟩
    rw [detail, none]
    rfl
  refine ⟨recovery, fun none => BitVec.eq_of_toNat_eq (held.trans ?_), fun r record => held.trans ?_,
    fun h => idle _ h rfl 0#2 rfl, fun h => idle _ h rfl 1#2 rfl,
    fun pn offset lanes data h => shown _ h 1#3 lanes rfl rfl offset data (detail_eq offset data),
    fun offset lanes h => shown _ h 2#3 lanes rfl rfl offset 0 ?_,
    fun offset lanes k h => shown _ h 3#3 lanes rfl rfl offset 0 ?_,
    fun pn offset lanes data n h => shown _ h 4#3 lanes rfl rfl offset data (detail_eq offset data)⟩
  · rw [State.heldAttentionCount, none]
    rfl
  · rw [State.heldAttentionCount, record]
    rfl
  all_goals
    rw [← detail_eq, FaultRecord.detailWord]
    exact (BitVec.or_zero).symm

end Sys2Proof.Machine
end

section
/-! Writes to the registers of the register window: what each does, what is read back of it, and which
command a host cycle carries (chapter 12). -/

namespace Sys2Proof.Machine

/-! ## The writes (O7, O9) -/

/-- Settles O7: each write sets the fields it names, in the state it meets. -/
theorem configurationRegisterWrites : Obligations.ConfigurationRegisterWrites := by
  unfold Obligations.ConfigurationRegisterWrites
  intro s t n v u c
  refine ⟨rfl, rfl, ?_⟩
  have armed : (v.extractLsb' 20 4 != 0#4) = decide (v.extractLsb' 20 4 ≠ 0) := by
    rw [Bool.eq_iff_iff]
    simp
  rw [← armed]
  rfl

/-- Settles O9: each cycle acts on its one field, or on nothing, in the state it meets. -/
theorem plainRegisterCycles : Obligations.PlainRegisterCycles := by
  unfold Obligations.PlainRegisterCycles
  intro s v u
  exact ⟨fun _ _ _ _ => rfl, fun offset _ => exec_registerWrite offset v s, rfl, rfl, rfl, rfl⟩

/-! ## What is read back (O8) -/

/-- The word whose bits `lo` to `lo + n - 1` are set. -/
def fieldMask (lo n : Nat) : Word := (BitVec.allOnes n).setWidth 32 <<< lo

theorem atBit_field (v : Word) (lo n : Nat) : atBit (v.extractLsb' lo n) lo = v &&& fieldMask lo n := by
  apply BitVec.eq_of_getLsbD_eq
  intro i hi
  simp only [atBit, fieldMask, BitVec.getLsbD_and, BitVec.getLsbD_shiftLeft, BitVec.getLsbD_setWidth,
    BitVec.getLsbD_extractLsb', BitVec.getLsbD_allOnes]
  by_cases below : i < lo
  · simp [below]
  · rw [Nat.add_sub_cancel' (Nat.not_lt.1 below), Bool.and_comm (v.getLsbD i)]
    simp only [Bool.and_assoc]

theorem flagAt_field (v : Word) (k : Nat) : flagAt (v.getLsbD k) k = v &&& fieldMask k 1 := by
  rw [← atBit_field, flagAt]
  congr 1
  apply BitVec.eq_of_getLsbD_eq
  intro i hi
  obtain rfl : i = 0 := by omega
  simp

theorem numberAt_toNat {n : Nat} (c : BitVec n) (lo : Nat) : numberAt c.toNat lo = atBit c lo := by
  rw [numberAt_eq, atBit_eq]

theorem numberAt_sizeCode (v : Word) : numberAt (WindowSize.ofCode (v.extractLsb' 16 4)).code 16 =
    if 8 ≤ (v.extractLsb' 16 4).toNat then 0x00080000#32 else v &&& fieldMask 16 4 := by
  have code : ∀ c : BitVec 4,
      (WindowSize.ofCode c).code = if 8 ≤ c.toNat then 8 else c.toNat := by decide
  rw [code]
  split
  · rfl
  · rw [numberAt_toNat, atBit_field]

theorem windowWord_writeWindow (c : TargetConfig) (v : Word) : (c.writeWindow v).windowWord =
    if 8 ≤ (v.extractLsb' 16 4).toNat then (v &&& 0x07F0FFFF#32) ||| 0x00080000#32
    else v &&& 0x07FFFFFF#32 := by
  have modeCode : ∀ m : BitVec 2, (match m.toNat with
      | 0 => AttentionMode.off | 1 => .rising | 2 => .falling | _ => .both).code = m.toNat := by decide
  have base : atBit (c.writeWindow v).base 0 = v &&& fieldMask 0 16 := atBit_field v 0 16
  have size : numberAt (c.writeWindow v).size.code 16 =
      if 8 ≤ (v.extractLsb' 16 4).toNat then 0x00080000#32 else v &&& fieldMask 16 4 :=
    numberAt_sizeCode v
  have width : ((c.writeWindow v).width == .half) = v.getLsbD 20 := by
    show ((if v.getLsbD 20 then Width.half else .byte) == .half) = _
    cases v.getLsbD 20 <;> rfl
  have ordering : ((c.writeWindow v).ordering == .strict) = v.getLsbD 21 := by
    show ((if v.getLsbD 21 then OrderingClass.strict else .relaxed) == .strict) = _
    cases v.getLsbD 21 <;> rfl
  have mode : numberAt (c.writeWindow v).attentionMode.code 24 = v &&& fieldMask 24 2 := by
    rw [← atBit_field, ← numberAt_toNat]
    exact congrArg (numberAt · 24) (modeCode (v.extractLsb' 24 2))
  have coalesce : flagAt (c.writeWindow v).coalesce 22 = v &&& fieldMask 22 1 := flagAt_field v 22
  have readySense : flagAt (c.writeWindow v).readySense 23 = v &&& fieldMask 23 1 := flagAt_field v 23
  have ordered : flagAt (c.writeWindow v).attentionOrdering 26 = v &&& fieldMask 26 1 := flagAt_field v 26
  rw [TargetConfig.windowWord, base, size, width, ordering, mode, coalesce, readySense, ordered, flagAt_field,
    flagAt_field]
  split
  · have masks : 0x07F0FFFF#32 = fieldMask 0 16 ||| fieldMask 20 1 ||| fieldMask 21 1
        ||| fieldMask 22 1 ||| fieldMask 23 1 ||| fieldMask 24 2 ||| fieldMask 26 1 := by decide
    have order : ∀ a b c d e f g h : Word,
        a ||| b ||| c ||| d ||| e ||| f ||| g ||| h = a ||| c ||| d ||| e ||| f ||| g ||| h ||| b := by
      intros
      ac_rfl
    rw [masks]
    iterate 6 rw [BitVec.and_or_distrib_left]
    exact order ..
  · have masks : 0x07FFFFFF#32 = fieldMask 0 16 ||| fieldMask 16 4 ||| fieldMask 20 1
        ||| fieldMask 21 1 ||| fieldMask 22 1 ||| fieldMask 23 1 ||| fieldMask 24 2
        ||| fieldMask 26 1 := by decide
    rw [masks]
    iterate 7 rw [BitVec.and_or_distrib_left]

theorem timingWord_writeTiming (c : TargetConfig) (v : Word) :
    (c.writeTiming v).timingWord = v &&& 0x3FFF03F3#32 := by
  have masks : 0x3FFF03F3#32 = fieldMask 0 2 ||| fieldMask 4 4 ||| fieldMask 8 2 ||| fieldMask 16 8
      ||| fieldMask 24 6 := by decide
  rw [masks]
  simp only [TargetConfig.timingWord, TargetConfig.writeTiming, atBit_field, BitVec.and_or_distrib_left]

theorem bridgeConfigOfWord_word (v : Word) : (bridgeConfigOfWord v).word = v &&& 0x000107FF#32 := by
  have masks : 0x000107FF#32 = fieldMask 0 8 ||| fieldMask 8 3 ||| fieldMask 16 1 := by decide
  rw [masks]
  simp only [BridgeConfig.word, bridgeConfigOfWord, atBit_field, flagAt_field,
    BitVec.and_or_distrib_left]

theorem comparatorOfWord_word (v : Word) : (comparatorOfWord v).word = (v &&& 0x03F0FFFF#32)
    ||| (if v.extractLsb' 16 2 = 3#2 then 0x00020000#32 else v &&& 0x00030000#32)
    ||| (if v.extractLsb' 18 2 = 3#2 then 0 else v &&& 0x000C0000#32)
    ||| (if v.extractLsb' 20 4 = 0#4 then 0 else 0x80000000#32) := by
  have sizeCode : ∀ c : BitVec 2, (match c.toNat with
      | 0 => WatchSize.one | 1 => .two | _ => .four).code = if c = 3#2 then 2 else c.toNat := by decide
  have kindCode : ∀ c : BitVec 2, (match c.toNat with
      | 1 => WatchKind.write | 2 => .read | _ => .any).code = if c = 3#2 then 0 else c.toNat := by decide
  have size : numberAt (comparatorOfWord v).size.code 16
      = if v.extractLsb' 16 2 = 3#2 then 0x00020000#32 else v &&& 0x00030000#32 := by
    refine (congrArg (numberAt · 16) (sizeCode (v.extractLsb' 16 2))).trans ?_
    split
    · rfl
    · rw [numberAt_toNat, atBit_field]; rfl
  have kind : numberAt (comparatorOfWord v).kind.code 18
      = if v.extractLsb' 18 2 = 3#2 then 0 else v &&& 0x000C0000#32 := by
    refine (congrArg (numberAt · 18) (kindCode (v.extractLsb' 18 2))).trans ?_
    split
    · rfl
    · rw [numberAt_toNat, atBit_field]; rfl
  have action : ((comparatorOfWord v).action == .halt) = v.getLsbD 24 := by
    show ((if v.getLsbD 24 then WatchAction.halt else .notice) == .halt) = _
    cases v.getLsbD 24 <;> rfl
  have armed : flagAt (comparatorOfWord v).armed 31
      = if v.extractLsb' 20 4 = 0#4 then 0 else 0x80000000#32 := by
    show flagAt (v.extractLsb' 20 4 != 0#4) 31 = _
    by_cases zero : v.extractLsb' 20 4 = 0#4
    · rw [zero]; rfl
    · rw [if_neg zero, bne_iff_ne.2 zero]; rfl
  have count : (if (comparatorOfWord v).armed then (comparatorOfWord v).remaining
      else (comparatorOfWord v).count) = v.extractLsb' 20 4 := ite_self _
  have masks : 0x03F0FFFF#32 = fieldMask 0 16 ||| fieldMask 20 4 ||| fieldMask 24 1
      ||| fieldMask 25 1 := by decide
  have order : ∀ a b c d e f g : Word,
      a ||| b ||| c ||| d ||| e ||| f ||| g = a ||| d ||| e ||| f ||| b ||| c ||| g := by
    intros
    ac_rfl
  have offset : atBit (comparatorOfWord v).offset 0 = v &&& fieldMask 0 16 := atBit_field v 0 16
  have repeats : flagAt (comparatorOfWord v).repeats 25 = v &&& fieldMask 25 1 := flagAt_field v 25
  rw [Comparator.word, size, kind, action, armed, count, offset, repeats, atBit_field, flagAt_field,
    masks, BitVec.and_or_distrib_left, BitVec.and_or_distrib_left, BitVec.and_or_distrib_left]
  exact order ..

/-- Settles O8: the word read back is the word written, under the mask of its fields. -/
theorem writtenRegistersReadBack : Obligations.WrittenRegistersReadBack := by
  unfold Obligations.WrittenRegistersReadBack
  intro s s' v
  refine ⟨fun t h => ?_, fun t h => ?_, fun h => ?_, fun h => ?_, fun n h => ?_⟩ <;>
    obtain rfl := Host.Outcome.next.inj h
  · rw [readRegister_window, registerReady_targets]
    refine (congrArg (fun e => e.staged.windowWord) (targets_set_self _)).trans ?_
    exact windowWord_writeWindow _ v
  · rw [readRegister_timing, registerReady_targets]
    refine (congrArg (fun e => e.staged.timingWord) (targets_set_self _)).trans ?_
    exact timingWord_writeTiming _ v
  · exact bridgeConfigOfWord_word v
  · rfl
  · rw [readRegister_comparator, registerReady_wu]
    refine (congrArg Comparator.word ?_).trans (comparatorOfWord_word v)
    simp only [Fin.getElem_fin, Vector.getElem_set_self]

end Sys2Proof.Machine
end

section
/-! The command a host cycle carries: the register map of chapter 12, the codes of R155 and the fields
of a Request (R87, R90, R155, R156, R159). -/

namespace Sys2Proof.Machine

/-- An offset at which section 12.4 has no register that takes a write takes none (R87). -/
theorem takesWrite_of_takesNoWrite {offset : BitVec 8} (h : takesNoWrite offset) :
    takesWrite offset = false := by
  have named : ∀ x : BitVec 8, x.toNat < 0x40 → 0x40 ≤ offset.toNat → offset ≠ x := by
    rintro x hx low rfl
    omega
  have unnamed : 0x40 ≤ offset.toNat → offset ∉ [0x08#8, 0x0C#8, 0x24#8, 0x28#8, 0x2C#8] := by
    intro low
    simp only [List.mem_cons, List.not_mem_nil, or_false, not_or]
    exact ⟨named _ (by decide) low, named _ (by decide) low, named _ (by decide) low,
      named _ (by decide) low, named _ (by decide) low⟩
  rw [← Bool.not_eq_true, takesWrite]
  simp only [Bool.and_eq_true, Bool.or_eq_true, beq_iff_eq, decide_eq_true_eq, not_and, not_or, not_lt]
  obtain unaligned | listed | ⟨low, high, word⟩ | ⟨low, word⟩ := h
  · exact fun aligned => absurd aligned unaligned
  · intro _
    simp only [List.mem_cons, List.not_mem_nil, or_false] at listed
    rcases listed with rfl | rfl | rfl | rfl | rfl | rfl | rfl <;> decide
  · exact fun _ => ⟨⟨⟨unnamed low, by omega⟩, by omega⟩, by omega⟩
  · exact fun _ => ⟨⟨⟨unnamed (by omega), by omega⟩, by omega⟩, by omega⟩

/-- The command word, by its code (R155). -/
theorem commandOfRegisterWrite_command (value : Word) :
    commandOfRegisterWrite 0x0C#8 value = commandOfWord value := rfl

theorem operand_eq {value : Word} {t : Target} (h : value.extractLsb' 8 3 = BitVec.ofNat 3 t.val) :
    (value.extractLsb' 8 3).toFin = t := by
  rw [h]
  apply Fin.ext
  simp

theorem commandOfWord_unknown {value : Word}
    (h : value.extractLsb' 0 8 = 0x00#8 ∨ 0x0A#8 ≤ value.extractLsb' 0 8) :
    commandOfWord value = .unknownCommand (value.extractLsb' 0 8) := by
  have code : (value.extractLsb' 0 8).toNat = 0 ∨ 10 ≤ (value.extractLsb' 0 8).toNat := by
    obtain zero | high := h
    · exact .inl (by rw [zero]; rfl)
    · exact .inr high
  unfold commandOfWord
  dsimp only
  split
  case h_10 => rfl
  all_goals omega

/-- The notify operand of FENCE is the lowest bit of the target operand (R155). -/
theorem fenceNotify_eq {value : Word} {t : Target}
    (h : value.extractLsb' 8 3 = BitVec.ofNat 3 t.val) : value.getLsbD 8 = (t.val % 2 == 1) := by
  have bit : (value.extractLsb' 8 3).getLsbD 0 = value.getLsbD 8 := by simp
  rw [← bit, h]
  clear h
  revert t
  decide

/-! ## The offset of a Request (R90) -/

theorem halfwordOf_toNat (offset : Offset) : (halfwordOf offset).toNat = offset.toNat / 2 * 2 := by
  have shifted : halfwordOf offset = (offset >>> 1) <<< 1 := by
    apply BitVec.eq_of_getLsbD_eq
    intro i hi
    have mask : (0xFFFE#16).getLsbD i = decide (1 ≤ i) := by
      revert i
      decide
    simp only [halfwordOf, BitVec.getLsbD_and, mask, BitVec.getLsbD_shiftLeft, BitVec.getLsbD_ushiftRight]
    by_cases first : i < 1
    · simp [first]
    · rw [Nat.add_sub_cancel' (Nat.not_lt.1 first)]
      simp [first, hi, Nat.not_lt.1 first]
  rw [shifted, BitVec.toNat_shiftLeft, BitVec.toNat_ushiftRight, Nat.shiftRight_eq_div_pow,
    Nat.shiftLeft_eq]
  have := offset.isLt
  omega

theorem or_one_toNat (offset : Offset) : (offset ||| 1#16).toNat = offset.toNat / 2 * 2 + 1 := by
  have bits : offset.toNat ||| 1 = offset.toNat / 2 * 2 + 1 := by
    have even : ∀ n : Nat, n / 2 * 2 + 1 = 2 ^ 1 * (n / 2) ||| 1 := fun n => by
      rw [← Nat.two_pow_add_eq_or_of_lt (by decide)]
      omega
    have whole : offset.toNat = 2 ^ 1 * (offset.toNat / 2) ||| offset.toNat % 2 := by
      rw [← Nat.two_pow_add_eq_or_of_lt (Nat.mod_lt _ (by decide))]
      omega
    rw [even]
    conv_lhs => rw [whole, Nat.or_assoc]
    congr 1
    obtain h | h := Nat.mod_two_eq_zero_or_one offset.toNat <;> rw [h] <;> rfl
  rw [BitVec.toNat_or]
  exact bits

/-- The lanes and the offset of a Request, by its lanes code (R90, R156). -/
theorem request_fields (v : Word) :
    (v.extractLsb' 16 2 = 0#2 ∨ v.extractLsb' 16 2 = 1#2 → requestLanes v = .low
        ∧ (requestOffset v).toNat = (v.extractLsb' 0 16).toNat / 2 * 2)
      ∧ (v.extractLsb' 16 2 = 2#2 → requestLanes v = .high
        ∧ (requestOffset v).toNat = (v.extractLsb' 0 16).toNat / 2 * 2 + 1)
      ∧ (v.extractLsb' 16 2 = 3#2 → requestLanes v = .both ∧ requestOffset v = v.extractLsb' 0 16) := by
  refine ⟨fun code => ?_, fun code => ?_, fun code => ?_⟩
  · have lanes : requestLanes v = .low := by
      unfold requestLanes
      obtain code | code := code <;> rw [code] <;> rfl
    exact ⟨lanes, by rw [requestOffset, lanes]; exact halfwordOf_toNat _⟩
  · have lanes : requestLanes v = .high := by
      unfold requestLanes
      rw [code]
      rfl
    exact ⟨lanes, by rw [requestOffset, lanes]; exact or_one_toNat _⟩
  · have lanes : requestLanes v = .both := by
      unfold requestLanes
      rw [code]
      rfl
    exact ⟨lanes, by rw [requestOffset, lanes]⟩

/-- Settles O6: the register map and the codes, one equation for each register and each code. -/
theorem hostCyclesSpellCommands : Obligations.HostCyclesSpellCommands := by
  unfold Obligations.HostCyclesSpellCommands
  refine ⟨fun address enables data => ?_, fun value t operand => ?_, fun value => ?_,
    fun offset value h => commandOfRegisterWrite_of_not_takesWrite (takesWrite_of_takesNoWrite h) value,
    fun v => ⟨rfl, request_fields v⟩⟩
  · intro size
    have sized : cycleSize enables = size := by
      revert enables
      decide
    clear_value size
    unfold commandOfHostCycle
    rw [sized]
    refine ⟨rfl, rfl, fun other write => ?_, fun word => ?_⟩
    · cases size
      case word => exact absurd rfl other
      all_goals cases write <;> rfl
    · rw [word]
      exact ⟨rfl, rfl⟩
  · have t' := operand_eq operand
    simp only [commandOfRegisterWrite_command]
    refine ⟨fun code => ?_, fun code => ?_, fun code => ?_, fun code => ?_, fun code => ?_,
      fun code => ?_, fun code => ?_, fun code => ?_, fun code => ?_, commandOfWord_unknown⟩
    case refine_3 => rw [commandOfWord, code, ← fenceNotify_eq operand]; rfl
    case refine_7 | refine_8 | refine_9 => rw [commandOfWord, code]; rfl
    all_goals rw [commandOfWord, code, t']; rfl
  · refine ⟨rfl, rfl, rfl, rfl, fun n => ?_, fun k => ?_, fun t => ?_⟩
    · fin_cases n <;> rfl
    · fin_cases k <;> exact ⟨rfl, rfl⟩
    · fin_cases t <;> exact ⟨rfl, rfl⟩

end Sys2Proof.Machine
end

section
/-! What the Notice Queue does with an offer, and when it interrupts the host (R134, R137, R140). -/

namespace Sys2Proof.Machine

section
variable {q : NoticeQueue} {n : Notice}

theorem offer_of_summaryOnly (h : q.select.getLsbD n.code = true) :
    q.offer n = q.indicate n.code := if_pos h

theorem offer_of_queued (h : q.select.getLsbD n.code = false) :
    q.offer n = (q.indicate n.code).queueUp n := if_neg (Bool.eq_false_iff.1 h)

theorem queueUp_of_overflowed (h : q.overflowCount?.isSome = true) : q.queueUp n = q.countLost := if_pos h

theorem queueUp_of_room (h : q.overflowCount? = none) (room : q.records.length < 15) :
    q.queueUp n = q.enter (.notice n) := by
  rw [NoticeQueue.queueUp, h]
  exact if_pos room

theorem queueUp_of_full (h : q.overflowCount? = none) (full : 15 ≤ q.records.length) :
    q.queueUp n = (q.enter (.overflow 1)).indicate overflowCode := by
  rw [NoticeQueue.queueUp, h]
  exact if_neg (Nat.not_lt.2 full)

theorem countLost_of_overflow {older : List NoticeRecord} {sequence count : BitVec 8}
    (h : q.records = older ++ [⟨sequence, .overflow count⟩]) : q.countLost = { q with
      records := older ++ [⟨sequence, .overflow (NoticeQueue.countUp count)⟩] } := by
  simp [NoticeQueue.countLost, h]

end

/-- Settles O53: the cases of an offer, and the two conditions of the interrupt line. -/
theorem noticeOfferAndInterruptLine : Obligations.NoticeOfferAndInterruptLine := by
  unfold Obligations.NoticeOfferAndInterruptLine
  refine ⟨fun q n => ?_, fun s => ?_⟩
  · intro summary overflowed
    have plain : ¬ overflowed → (q.indicate n.code).overflowCount? = none := by
      intro notOverflowed
      refine Option.eq_none_iff_forall_ne_some.2 fun count h => notOverflowed ?_
      obtain ⟨older, sequence, records⟩ := overflowCount_eq_some.1 h
      exact ⟨older, sequence, count, records⟩
    refine ⟨offer_of_summaryOnly, fun queued => ⟨fun notOverflowed room => ?_, fun notOverflowed full => ?_,
      fun older sequence count records => ?_⟩⟩
    · exact (offer_of_queued queued).trans (queueUp_of_room (plain notOverflowed) room)
    · exact (offer_of_queued queued).trans (queueUp_of_full (plain notOverflowed) full)
    · have isOverflowed : (q.indicate n.code).overflowCount? = some count :=
        overflowCount_eq_some.2 ⟨older, sequence, records⟩
      exact ((offer_of_queued queued).trans (queueUp_of_overflowed (by rw [isOverflowed]; rfl))).trans
        (countLost_of_overflow records)
  · simp [State.interruptLine]

end Sys2Proof.Machine
end

section
/-! The Command register: what every command answers, and the conditions of each command in the words
of sections 1.2, 3.6, 7.3, 11.3 and 11.4 (R4 to R7, R55, R106 to R110, R143 to R149). -/

namespace Sys2Proof.Machine

/-! ## Commands and their answers -/

/-- What the block of a command answers to it. -/
def answerTo : Instr → State → Answer
  | .enable t => enableTarget t
  | .disable t => disableTarget t
  | .fence notify => postFence notify
  | .resume t => resumeTarget t
  | .skip t => skipTarget t
  | .discard t => discardTarget t
  | .quiesce => quiesceBridge
  | .openBridge => openFromQuiesce
  | .clear => clearBridge
  | _ => refuse .refusedArgument .unknownCommand

theorem exec_command {c : Instr} {code : BitVec 8} (h : commandCode c = some code) (s : State) :
    exec c s = .next (takeCommand code (answerTo c) (metBy c s)) := by
  cases c <;> cases h <;> rfl

theorem settleCommand_eq (code : BitVec 8) (a : Answer) :
    settleCommand code a = answered code a.result a.detail a.state := rfl

/-- Outside Clearing a command does what its block answers (R143). -/
theorem exec_answer {c : Instr} {code : BitVec 8} {s u : State} {a : Answer}
    (h : commandCode c = some code) (met : metBy c s = u) (live : u.bc.state ≠ .clearing)
    (answer : answerTo c u = a) : exec c s = .next (answered code a.result a.detail a.state) := by
  subst met answer
  rw [exec_command h, takeCommand_of live, settleCommand_eq]

/-- While Clearing a command is refused (R143). -/
theorem exec_command_clearing {c : Instr} {code : BitVec 8} {s : State}
    (h : commandCode c = some code) (clearing : (metBy c s).bc.state = .clearing) :
    exec c s = .next (answered code .refusedClearing .none (metBy c s)) := by
  rw [exec_command h, takeCommand_clearing clearing, settleCommand_eq]
  rfl

/-- A block's answer leaves the state alone unless it accepts (R144). -/
def RefusesInPlace (s : State) (a : Answer) : Prop := a.result ≠ .accepted → a.state = s

theorem refusesInPlace_refuse (result : CommandResult) (detail : Detail) (s : State) :
    RefusesInPlace s (refuse result detail s) := fun _ => rfl

theorem refusesInPlace_accept (detail : Detail) (s t : State) :
    RefusesInPlace s (accept detail t) := fun h => absurd rfl h

theorem refusesInPlace_enable (t : Target) (s : State) : RefusesInPlace s (enableTarget t s) := by
  unfold enableTarget
  cases s.admission t with
  | opened => exact refusesInPlace_refuse _ _ _
  | halted fault => exact refusesInPlace_refuse _ _ _
  | disabled =>
    dsimp only
    split
    · exact refusesInPlace_refuse _ _ _
    · exact refusesInPlace_accept _ _ _

theorem refusesInPlace_disable (t : Target) (s : State) : RefusesInPlace s (disableTarget t s) := by
  unfold disableTarget
  split
  · split
    · exact refusesInPlace_refuse _ _ _
    · exact refusesInPlace_accept _ _ _
  · exact refusesInPlace_refuse _ _ _

theorem refusesInPlace_skip (t : Target) (s : State) : RefusesInPlace s (skipTarget t s) := by
  unfold skipTarget
  split
  · exact refusesInPlace_accept _ _ _
  all_goals exact refusesInPlace_refuse _ _ _

theorem refusesInPlace_resume (t : Target) (s : State) : RefusesInPlace s (resumeTarget t s) := by
  unfold resumeTarget
  split
  · exact refusesInPlace_accept _ _ _
  · exact refusesInPlace_accept _ _ _
  · exact refusesInPlace_refuse _ _ _

theorem refusesInPlace_discard (t : Target) (s : State) : RefusesInPlace s (discardTarget t s) := by
  unfold discardTarget
  split
  · exact refusesInPlace_refuse _ _ _
  · split
    · exact refusesInPlace_refuse _ _ _
    · exact refusesInPlace_accept _ _ _

theorem refusesInPlace_fence (notify : Bool) (s : State) :
    RefusesInPlace s (postFence notify s) := by
  unfold postFence
  split
  · exact refusesInPlace_accept _ _ _
  · exact refusesInPlace_refuse _ _ _

theorem refusesInPlace_quiesce (s : State) : RefusesInPlace s (quiesceBridge s) := by
  unfold quiesceBridge
  split
  · split
    · exact refusesInPlace_accept _ _ _
    · exact refusesInPlace_accept _ _ _
  · exact refusesInPlace_refuse _ _ _

theorem refusesInPlace_open (s : State) : RefusesInPlace s (openFromQuiesce s) := by
  unfold openFromQuiesce
  split
  · exact refusesInPlace_refuse _ _ _
  · exact refusesInPlace_accept _ _ _

theorem refusesInPlace_answerTo (c : Instr) (s : State) : RefusesInPlace s (answerTo c s) := by
  cases c with
  | enable t => exact refusesInPlace_enable t s
  | disable t => exact refusesInPlace_disable t s
  | resume t => exact refusesInPlace_resume t s
  | skip t => exact refusesInPlace_skip t s
  | discard t => exact refusesInPlace_discard t s
  | clear => exact refusesInPlace_accept _ _ _
  | fence notify => exact refusesInPlace_fence notify s
  | quiesce => exact refusesInPlace_quiesce s
  | openBridge => exact refusesInPlace_open s
  | _ => exact refusesInPlace_refuse _ _ _

/-- Settles O26: each block refuses in place, and Clearing refuses every command. -/
theorem refusedCommandChangesOnlyStatus : Obligations.RefusedCommandChangesOnlyStatus := by
  intro s t c code h ran
  by_cases clearing : (metBy c s).bc.state = .clearing
  · rw [exec_command_clearing h clearing] at ran
    obtain rfl := Host.Outcome.next.inj ran
    exact ⟨rfl, fun _ => rfl⟩
  · rw [exec_answer h rfl clearing rfl] at ran
    obtain rfl := Host.Outcome.next.inj ran
    refine ⟨rfl, fun refused => ?_⟩
    have same := refusesInPlace_answerTo c (metBy c s) refused
    rw [same]
    rfl

/-- Settles O25: Clearing refuses every command, and an unknown code is refused by no block. -/
theorem clearingAndUnknownCodesRefuse : Obligations.ClearingAndUnknownCodesRefuse :=
  fun _ => ⟨fun _ _ h clearing => exec_command_clearing h clearing,
    fun code _ live => exec_answer (c := .unknownCommand code) rfl rfl live rfl⟩

/-! ## ENABLE (R4, R5) -/

theorem enableTarget_of_not_disabled {s : State} {t : Target} (h : s.admission t ≠ .disabled) :
    enableTarget t s = refuse .refusedState (s.admission t).detail s := by
  unfold enableTarget
  split
  · next disabled => exact absurd disabled h
  · rfl

theorem enableTarget_of_fault {s : State} {t : Target} {detail : Detail}
    (h : s.admission t = .disabled) (fault : s.enableFault? s.targets[t].staged = some detail) :
    enableTarget t s = refuse .refusedArgument detail s := by
  simp only [enableTarget, h, fault]

theorem enableTarget_of_passed {s : State} {t : Target} (h : s.admission t = .disabled)
    (passed : s.enableFault? s.targets[t].staged = none) :
    enableTarget t s = accept .none
      (markFreed (s.setTarget t ⟨s.targets[t].staged, s.targets[t].staged, .opened⟩)) := by
  simp only [enableTarget, h, passed]

theorem enableFault_of_overlap {s : State} {c : TargetConfig} {x : Target}
    (wf : liveConfigWf c) (enabled : (s.admission x).enabled = true)
    (shares : shareOffset c (s.live x))
    (lowest : ∀ y < x, (s.admission y).enabled = true → ¬ shareOffset c (s.live y)) :
    s.enableFault? c = some (.overlap x) := by
  obtain ⟨aligned, strobe, timeout⟩ := wf
  have found : s.overlap? c = some x := by
    refine find_allTargets (by rw [enabled, windowsMeet_iff.2 shares]; rfl) fun y below => ?_
    rw [Bool.and_eq_false_imp]
    intro yEnabled
    exact eq_false_of_ne_true fun meets => lowest y below yEnabled (windowsMeet_iff.1 meets)
  rw [State.enableFault?, if_neg (not_not.2 aligned), if_neg strobe, if_neg timeout, found]
  rfl

/-- Settles O27: the refusals by the admission state found and the first check that fails. -/
theorem enableCommand : Obligations.EnableCommand := by
  intro s t u c live
  have answers {a : Answer} (h : enableTarget t u = a) :
      exec (.enable t) s = .next (answered 0x01#8 a.result a.detail a.state) :=
    exec_answer (c := .enable t) rfl rfl live h
  refine ⟨fun opened => ?_, fun fault halted => ?_, fun disabled => ⟨fun unaligned => ?_,
    fun aligned strobe => ?_, fun aligned strobe timeout => ?_, fun aligned strobe timeout =>
      ⟨fun x enabled shares lowest => ?_, fun apart => ?_⟩⟩⟩
  · exact answers ((enableTarget_of_not_disabled (by simp [opened])).trans
      (by rw [opened]))
  · exact answers ((enableTarget_of_not_disabled (by simp [halted])).trans
      (by rw [halted]))
  · exact answers (enableTarget_of_fault disabled (if_pos unaligned))
  · have fault : u.enableFault? c = some .strobe := by
      rw [State.enableFault?, if_neg (not_not.2 aligned), if_pos strobe]
    exact answers (enableTarget_of_fault disabled fault)
  · have fault : u.enableFault? c = some .timeout := by
      rw [State.enableFault?, if_neg (not_not.2 aligned), if_neg strobe, if_pos timeout]
    exact answers (enableTarget_of_fault disabled fault)
  · exact answers (enableTarget_of_fault disabled
      (enableFault_of_overlap ⟨aligned, strobe, timeout⟩ enabled shares lowest))
  · have passed : u.enableFault? c = none := enableFault_eq_none.2 ⟨⟨aligned, strobe, timeout⟩,
      fun x enabled => eq_false_of_ne_true fun meets => apart x enabled (windowsMeet_iff.1 meets)⟩
    exact answers (enableTarget_of_passed disabled passed)

/-! ## DISABLE (R6, R7) -/

theorem holdsRequest_iff {state : SlotState} : state.holdsRequest = true ↔
    state = .waiting ∨ state = .issued ∨ state = .cancelling := by
  cases state <;> simp [SlotState.holdsRequest]

theorem holdsRequest_eq_false_iff {state : SlotState} : state.holdsRequest = false ↔
    state = .free ∨ state = .done ∨ state = .failed := by
  cases state <;> simp [SlotState.holdsRequest]

theorem anyWriteOf_iff {entries : List QueueEntry} {t : Target} :
    entries.any (·.isWriteOf t) = true ↔ ∃ e, .write e ∈ entries ∧ e.target = t := by
  rw [List.any_eq_true]
  constructor
  · rintro ⟨entry, mem, ofTarget⟩
    cases entry with
    | write e => exact ⟨e, mem, eq_of_beq ofTarget⟩
    | fence f => cases ofTarget
  · rintro ⟨e, mem, rfl⟩
    exact ⟨_, mem, beq_self_eq_true _⟩

theorem anySlotOf_iff {s : State} {t : Target} :
    s.fs.toList.any (fun r => r.state.holdsRequest && r.target == t) = true ↔
      ∃ k : SlotNo, s.fs[k].target = t
        ∧ (s.fs[k].state = .waiting ∨ s.fs[k].state = .issued ∨ s.fs[k].state = .cancelling) := by
  rw [List.any_eq_true]
  constructor
  · rintro ⟨r, mem, ofTarget⟩
    obtain ⟨k, bound, rfl⟩ := Vector.mem_iff_getElem.1 (Vector.mem_toList_iff.1 mem)
    rw [Bool.and_eq_true, holdsRequest_iff, beq_iff_eq] at ofTarget
    exact ⟨⟨k, bound⟩, ofTarget.2, ofTarget.1⟩
  · rintro ⟨k, rfl, holds⟩
    refine ⟨s.fs[k], Vector.mem_toList_iff.2 (Vector.getElem_mem k.isLt), ?_⟩
    rw [holdsRequest_iff.2 holds, beq_self_eq_true, Bool.and_self]

theorem disableTarget_of_busy {s : State} {t : Target} {detail : Detail}
    (enabled : s.admission t ≠ .disabled) (busy : s.busyWith? t = some detail) :
    disableTarget t s = refuse .refusedBusy detail s := by
  simp only [disableTarget, enabled_iff.2 enabled, if_true, busy]

theorem disableTarget_of_idle {s : State} {t : Target} (enabled : s.admission t ≠ .disabled)
    (idle : s.busyWith? t = none) :
    disableTarget t s = accept .none (s.setAdmission t .disabled) := by
  simp only [disableTarget, enabled_iff.2 enabled, if_true, idle]

/-- Settles O28: the first of the five conditions that holds names the refusal. -/
theorem disableCommand : Obligations.DisableCommand := by
  intro s t u inFlight heldCycle writeEntry fetch record refusedBusy live
  have answers {a : Answer} (h : disableTarget t u = a) :
      exec (.disable t) s = .next (answered 0x02#8 a.result a.detail a.state) :=
    exec_answer (c := .disable t) rfl rfl live h
  refine ⟨fun disabled => ?_, fun enabled => ?_⟩
  · have answer : disableTarget t u = refuse .refusedState .disabled u := by
      rw [disableTarget, disabled]
      rfl
    exact answers answer
  have busy (detail : Detail) (h : u.busyWith? t = some detail) : refusedBusy detail :=
    answers (disableTarget_of_busy enabled h)
  have isRecord : u.au[t].record.isSome = true ↔ record := Option.isSome_iff_ne_none
  refine ⟨fun h1 => busy _ ?_, fun h1 h2 => busy _ ?_, fun h1 h2 h3 => busy _ ?_,
    fun h1 h2 h3 h4 => busy _ ?_, fun h1 h2 h3 h4 h5 => busy _ ?_, fun h1 h2 h3 h4 h5 => ?_⟩
  · rw [State.busyWith?, if_pos (inFlight_iff.2 h1)]
  · rw [State.busyWith?, if_neg (mt inFlight_iff.1 h1), if_pos (holdsCycleOf_iff.2 h2)]
  · rw [State.busyWith?, if_neg (mt inFlight_iff.1 h1), if_neg (mt holdsCycleOf_iff.1 h2),
      if_pos (anyWriteOf_iff.2 h3)]
  · rw [State.busyWith?, if_neg (mt inFlight_iff.1 h1), if_neg (mt holdsCycleOf_iff.1 h2),
      if_neg (mt anyWriteOf_iff.1 h3), if_pos (anySlotOf_iff.2 h4)]
  · rw [State.busyWith?, if_neg (mt inFlight_iff.1 h1), if_neg (mt holdsCycleOf_iff.1 h2),
      if_neg (mt anyWriteOf_iff.1 h3), if_neg (mt anySlotOf_iff.1 h4), if_pos (isRecord.2 h5)]
  · have idle : u.busyWith? t = none := by
      rw [State.busyWith?, if_neg (mt inFlight_iff.1 h1), if_neg (mt holdsCycleOf_iff.1 h2),
        if_neg (mt anyWriteOf_iff.1 h3), if_neg (mt anySlotOf_iff.1 h4), if_neg (mt isRecord.1 h5)]
    exact answers (disableTarget_of_idle enabled idle)

/-! ## FENCE, RESUME, SKIP and DISCARD (R55, R107, R109, R110) -/

/-- Settles O29: the room decides, and a fence waits for everything present. -/
theorem fenceCommand : Obligations.FenceCommand := by
  intro s notify u live
  have answers {a : Answer} (h : postFence notify u = a) :
      exec (.fence notify) s = .next (answered 0x03#8 a.result a.detail a.state) :=
    exec_answer (c := .fence notify) rfl rfl live h
  refine ⟨fun full => ?_, fun room => ?_⟩
  · have answer : postFence notify u = refuse .refusedFull .none u := by
      rw [postFence, if_neg (mt room_iff.1 full)]
    exact answers answer
  · have answer : postFence notify u = accept (.number u.wq.nextPn) { u with
        wq := withEntry u.wq (.fence ⟨u.wq.nextPn, notify⟩)
        ou := u.ou ++ [⟨.entry u.wq.nextPn, none, u.ou.map (·.id)⟩] } := by
      rw [postFence, if_pos (room_iff.2 room), ← waitSetOf_none]
      rfl
    exact answers answer

theorem resumeTarget_of_writeTimeout {s : State} {t : Target} {pn : PN} {offset : Offset}
    {lanes : Lanes} {data : LaneWord}
    (halted : s.admission t = .halted (.writeTimeout pn offset lanes data)) :
    resumeTarget t s = accept (.number pn)
      (updateEntry pn (fun e => { e with failed := false }) (s.openTarget t)) := by
  simp only [resumeTarget, halted]

theorem resumeTarget_of_other {s : State} {t : Target} {fault : FaultRecord}
    (halted : s.admission t = .halted fault)
    (other : ∀ pn offset lanes data, fault ≠ .writeTimeout pn offset lanes data) :
    resumeTarget t s = accept (.number 0) (s.openTarget t) := by
  cases fault with
  | writeTimeout pn offset lanes data => exact absurd rfl (other pn offset lanes data)
  | _ => simp only [resumeTarget, halted]

theorem resumeTarget_of_not_halted {s : State} {t : Target}
    (h : ∀ fault, s.admission t ≠ .halted fault) :
    resumeTarget t s = refuse .refusedState (s.admission t).detail s := by
  unfold resumeTarget
  split
  · next halted => exact absurd halted (h _)
  · next halted => exact absurd halted (h _)
  · rfl

theorem skipTarget_of_writeTimeout {s : State} {t : Target} {pn : PN} {offset : Offset}
    {lanes : Lanes} {data : LaneWord}
    (halted : s.admission t = .halted (.writeTimeout pn offset lanes data)) :
    skipTarget t s = accept (.number pn) (leaveQueue [pn] true (s.openTarget t)) := by
  simp only [skipTarget, halted]

/-- Settles O30: the admission state and the fault's cause decide. -/
theorem resumeAndSkipCommands : Obligations.ResumeAndSkipCommands := by
  constructor
  · intro s t u opened live
    have answers {a : Answer} (h : resumeTarget t u = a) :
        exec (.resume t) s = .next (answered 0x04#8 a.result a.detail a.state) :=
      exec_answer (c := .resume t) rfl rfl live h
    refine ⟨fun h => ?_, fun h => ?_, fun pn offset lanes data h => ?_, fun fault h other => ?_⟩
    · exact answers ((resumeTarget_of_not_halted (by simp [h])).trans (by rw [h]))
    · exact answers ((resumeTarget_of_not_halted (by simp [h])).trans (by rw [h]))
    · exact answers (resumeTarget_of_writeTimeout h)
    · exact answers (resumeTarget_of_other h other)
  · intro s t u refused live
    have answers {a : Answer} (h : skipTarget t u = a) :
        exec (.skip t) s = .next (answered 0x05#8 a.result a.detail a.state) :=
      exec_answer (c := .skip t) rfl rfl live h
    have refusedWith (detail : Detail) (h : skipTarget t u = refuse .refusedState detail u) :
        refused detail := answers h
    refine ⟨fun h => refusedWith _ ?_, fun h => refusedWith _ ?_, fun _ _ h => refusedWith _ ?_,
      fun _ _ _ h => refusedWith _ ?_, fun _ _ _ _ _ h => refusedWith _ ?_,
      fun pn offset lanes data h => ?_⟩
    · simp only [skipTarget, h, Admission.detail]
    · simp only [skipTarget, h, Admission.detail]
    · simp only [skipTarget, h]
    · simp only [skipTarget, h]
    · simp only [skipTarget, h]
    · exact answers (skipTarget_of_writeTimeout h)

/-- Settles O31: the target's admission state and the access in flight decide. -/
theorem discardCommand : Obligations.DiscardCommand := by
  intro s t u inFlight pns live
  have answers {a : Answer} (h : discardTarget t u = a) :
      exec (.discard t) s = .next (answered 0x06#8 a.result a.detail a.state) :=
    exec_answer (c := .discard t) rfl rfl live h
  refine ⟨fun disabled => ?_, fun enabled busy => ?_, fun enabled idle => ?_⟩
  · have answer : discardTarget t u = refuse .refusedState .disabled u := by
      rw [discardTarget, disabled]
      rfl
    exact answers answer
  · have answer : discardTarget t u = refuse .refusedBusy .inFlight u := by
      rw [discardTarget, enabled_iff.2 enabled, if_neg (by decide), if_pos (inFlight_iff.2 busy)]
    exact answers answer
  · have samePns : u.wq.pnsOf t = pns := pnsOf_eq u.wq t
    have answer : discardTarget t u = accept (.number (BitVec.ofNat 16 pns.length))
        (leaveQueue pns true (u.openTarget t)) := by
      rw [discardTarget, enabled_iff.2 enabled, if_neg (by decide), if_neg (mt inFlight_iff.1 idle),
        samePns]
    exact answers answer

/-! ## QUIESCE, OPEN and CLEAR (R146, R148, R149) -/

/-- The drain condition in the words of R146. -/
theorem drained_iff_slots {s : State} : s.drained = true ↔ s.wq.entries = [] ∧ s.heldRead? = none
    ∧ s.dbe.access = none
    ∧ ∀ k : SlotNo, s.fs[k].state = .free ∨ s.fs[k].state = .done ∨ s.fs[k].state = .failed := by
  simp only [drained_iff, holdsRequest_eq_false_iff]

theorem quiesceBridge_of_not_running {s : State} (h : s.bc.state ≠ .running) :
    quiesceBridge s = refuse .refusedState s.bc.state.detail s := if_neg h

theorem openFromQuiesce_of_not_running {s : State} (h : s.bc.state ≠ .running) :
    openFromQuiesce s = accept s.bc.state.detail (setBridge .running s) := if_neg h

/-- Settles O32: the bridge state found, and for QUIESCE the drain condition, decide. -/
theorem quiesceAndOpenCommands : Obligations.QuiesceAndOpenCommands := by
  constructor
  · intro s u drained
    have answers {a : Answer} (live : u.bc.state ≠ .clearing) (h : quiesceBridge u = a) :
        exec .quiesce s = .next (answered 0x07#8 a.result a.detail a.state) :=
      exec_answer (c := .quiesce) rfl rfl live h
    refine ⟨fun running d => ?_, fun running d => ?_, fun state => ?_, fun state => ?_⟩
    · exact answers (by simp [running]) ((if_pos running).trans (if_pos (drained_iff_slots.2 d)))
    · exact answers (by simp [running])
        ((if_pos running).trans (if_neg (mt drained_iff_slots.1 d)))
    · exact answers (by simp [state])
        ((quiesceBridge_of_not_running (by simp [state])).trans (by rw [state]))
    · exact answers (by simp [state])
        ((quiesceBridge_of_not_running (by simp [state])).trans (by rw [state]))
  · intro s u
    have answers {a : Answer} (live : u.bc.state ≠ .clearing) (h : openFromQuiesce u = a) :
        exec .openBridge s = .next (answered 0x08#8 a.result a.detail a.state) :=
      exec_answer (c := .openBridge) rfl rfl live h
    refine ⟨fun running => ?_, fun state => ?_, fun state => ?_⟩
    · exact answers (by simp [running]) (if_pos running)
    · exact answers (by simp [state])
        ((openFromQuiesce_of_not_running (by simp [state])).trans (by rw [state]))
    · exact answers (by simp [state])
        ((openFromQuiesce_of_not_running (by simp [state])).trans (by rw [state]))

/-- What CLEAR leaves, once the held cycle is ended. -/
theorem exec_clear {s u x : State} (met : arriveAtClear s = u) (live : u.bc.state ≠ .clearing)
    (ended : clearHeldCycle u = x) :
    exec .clear s = .next (answered 0x09#8 .accepted .none { x with
      bc := { x.bc with state := .clearing }
      wu := x.wu.map fun c => { c with armed := false } }) := by
  subst ended
  exact exec_answer (c := .clear) rfl met live rfl

theorem clearHeldCycle_of_write {s : State} {w : HeldWrite} (held : s.hif.held = some (.write w)) :
    clearHeldCycle s = reply (.apertureWrite w.offset .busError) (endHold s) := by
  simp only [clearHeldCycle, held]

theorem clearHeldCycle_of_waiting {s : State} {r : HeldRead} (held : s.hif.held = some (.read r))
    (waiting : r.phase = .waiting) :
    clearHeldCycle s = reply (.apertureRead r.offset .busError) (dropHeldRead s) := by
  simp only [clearHeldCycle, held, waiting]

theorem clearHeldCycle_of_issued {s : State} {r : HeldRead} (held : s.hif.held = some (.read r))
    (issued : r.phase = .issued) :
    clearHeldCycle s = if r.cycle = .opened then endIssuedCycle r s else s := by
  simp only [clearHeldCycle, held, issued]
  cases r.cycle <;> rfl

/-- Settles O33: the held cycle's kind and phase decide how CLEAR ends it. -/
theorem clearCommand : Obligations.ClearCommand := by
  intro s u cleared noCycle live
  have clears {x : State} (ended : clearHeldCycle u = x) : exec .clear s = cleared x :=
    exec_clear rfl live ended
  refine ⟨fun free => clears (by simp only [clearHeldCycle, free]),
    fun w held => clears (clearHeldCycle_of_write held), fun r held =>
    ⟨fun waiting => clears (clearHeldCycle_of_waiting held waiting),
      fun issued opened => clears ((clearHeldCycle_of_issued held issued).trans (if_pos opened)),
      fun issued ended => clears ((clearHeldCycle_of_issued held issued).trans
        (if_neg (by rw [ended]; nofun)))⟩⟩

theorem exec_clearTakesEffect {s : State} (clearing : s.bc.state = .clearing)
    (free : s.dbe.access = none) : exec .clearTakesEffect s = .next (clearEverything (newStep s)) := by
  have due : (newStep s).clearDue = true := by
    rw [State.clearDue, newStep_bc, newStep_dbe, clearing, free]
    rfl
  exact congrArg Host.Outcome.next (if_pos due)

/-- Settles O34: what `clearEverything` leaves of each block. -/
theorem clearTakesEffect : Obligations.ClearTakesEffect := by
  intro s clearing free
  refine ⟨_, exec_clearTakesEffect clearing free, rfl, rfl, rfl, rfl, fun k => ?_, fun x => ?_,
    fun x => ?_, rfl, rfl, rfl, rfl, rfl, rfl⟩
  · simp [clearEverything]
  · have same : (newStep s).admission x = s.admission x := rfl
    refine ⟨by simp [clearEverything], by simp [clearEverything], fun disabled => ?_,
      fun enabled => ?_⟩
    · rw [admission_clearEverything, same, disabled]
      rfl
    · rw [admission_clearEverything, same]
      cases h : s.admission x with
      | disabled => exact absurd h enabled
      | opened => rfl
      | halted fault => rfl
  · simp [clearEverything]

end Sys2Proof.Machine
end

section
/-! Decode as a function of the live windows (R8, R9), and what departures take out of the present set,
the queue and the attention records (R36, R41, R44, R112, R120). -/

namespace Sys2Proof.Machine

/-! ## Decode -/

/-- An offset is in the live windows of one enabled target at most (R4). -/
theorem windowHas_unique {s : State} (wf : WindowsWf s) {t x : Target} {offset : Offset}
    (ht : (s.admission t).enabled = true) (hx : (s.admission x).enabled = true)
    (inT : windowHas (s.live t).base (s.live t).size offset = true)
    (inX : windowHas (s.live x).base (s.live x).size offset = true) : t = x := by
  by_contra different
  have meets : windowsMeet (s.live t) (s.live x) = true :=
    windowsMeet_iff.2 ⟨offset.toNat, windowHas_iff.1 inT, windowHas_iff.1 inX⟩
  rw [wf.2 t x different ht hx] at meets
  cases meets

theorem decodeLanes_hit_iff {s : State} (wf : WindowsWf s) {offset : Offset} {lanes : Lanes}
    {t : Target} : s.decodeLanes offset lanes = .hit t lanes ↔ (s.admission t).enabled = true
      ∧ windowHas (s.live t).base (s.live t).size offset = true := by
  refine ⟨fun h => (decodeLanes_hit h).2, fun ⟨enabled, inside⟩ => ?_⟩
  cases found : s.decodeLanes offset lanes with
  | miss cause =>
    have outside := (decodeLanes_miss.1 found).2 t enabled
    rw [inside] at outside
    cases outside
  | hit x l =>
    obtain ⟨rfl, xEnabled, xInside⟩ := decodeLanes_hit found
    rw [windowHas_unique wf enabled xEnabled inside xInside]

/-- Settles O13: the lanes by the size and the lowest bit, the target by the live windows. -/
theorem decodeByLiveWindows : Obligations.DecodeByLiveWindows := by
  refine ⟨rfl, fun s offset wf => ⟨?_, ?_, fun odd => ?_, fun even => ?_, fun lanes =>
    ⟨fun t => ?_, ?_⟩⟩⟩
  · simp only [State.decode, lanesOfCycle]
  · simp only [State.decode, lanesOfCycle]
  · have bit : offset.getLsbD 0 = true := by
      rw [BitVec.getLsbD, Nat.testBit_zero, odd]
      rfl
    simp only [State.decode, lanesOfCycle, bit, and_self]
  · have bit : offset.getLsbD 0 = false := by
      rw [BitVec.getLsbD, Nat.testBit_zero, even]
      rfl
    simp only [State.decode, lanesOfCycle, bit, and_self]
  · rw [decodeLanes_hit_iff wf, windowHas_iff]
  · rw [decodeLanes_miss]
    simp only [true_and, ← Bool.not_eq_true, windowHas_iff]

/-! ## Departures -/

theorem map_id_strike (ids : List RequestId) (ou : List PresentRequest) :
    (strike ids ou).map (·.id) = (ou.map (·.id)).filter (fun i => decide (i ∉ ids)) := by
  rw [strike, List.map_map, List.filter_map]
  simp only [List.contains_eq_mem, decide_not]
  rfl

/-- What a departure from the queue leaves of the HIF, in the words of R30. -/
theorem leaveQueue_hif_eq (pns : List PN) (dropped : Bool) (s : State) :
    (leaveQueue pns dropped s).hif = { s.hif with recheckDue :=
      s.hif.recheckDue || (s.heldWrite?.isSome && decide (pns ≠ [])) } := by
  cases pns with
  | nil => simp [leaveQueue]
  | cons pn rest =>
    have held : (match s.hif.held with | some (.write _) => true | _ => false)
        = s.heldWrite?.isSome := by
      unfold State.heldWrite?
      cases s.hif.held with
      | none => rfl
      | some a => cases a <;> rfl
    have some : decide (pn :: rest ≠ []) = true := rfl
    rw [some, Bool.and_true, ← held]
    exact queueDeparture_eq s.hif

/-- Settles O15: `strike` on the present set, and the frames of `depart` and `leaveQueue`. -/
theorem departures : Obligations.Departures := by
  constructor
  · intro ids s
    refine ⟨map_id_strike ids s.ou, fun r' => ?_, rfl⟩
    rw [depart_ou, mem_strike]
    constructor
    · rintro ⟨r, mem, stays, rfl⟩
      refine ⟨r, mem, stays, rfl, rfl, ?_⟩
      simp only [List.contains_eq_mem, decide_not]
    · rintro ⟨r, mem, stays, id, target, waitSet⟩
      refine ⟨r, mem, stays, ?_⟩
      cases r'
      subst id target waitSet
      simp only [List.contains_eq_mem, decide_not]
  · intro pns dropped s
    have entries : s.wq.remove pns
        = { s.wq with entries := s.wq.entries.filter (fun e => decide (e.pn ∉ pns)) } := by
      simp only [WriteQueue.remove, List.contains_eq_mem, decide_not]
    have struck (t : Target) : (leaveQueue pns dropped s).au[t] = s.au[t].strike pns dropped :=
      Vector.getElem_map _ t.isLt
    refine ⟨?_, fun t => ?_⟩
    · rw [← leaveQueue_hif_eq pns dropped s, ← entries]
      rfl
    · rw [struck]
      refine ⟨rfl, fun none => ?_, fun r record => ?_⟩
      · rw [strike_record, none]
        rfl
      · rw [strike_record, record]
        have member : pns.contains = fun m => decide (m ∈ pns) := funext fun m =>
          List.contains_eq_mem m pns
        simp only [member, List.contains_eq_mem, decide_not, Option.map_some]

end Sys2Proof.Machine
end

section
/-! Where nothing is due: the conditions of each consequence of a departure, and the states an arrival
meets or leaves without one (R30, R56, R120, R147). -/

namespace Sys2Proof.Machine

theorem departureDues_eq_nil_iff {s : State} : s.departureDues = [] ↔ s.fenceDue? = none
    ∧ (∀ t, s.attentionDue t = false) ∧ s.recheckIsDue = false ∧ s.quiescedDue = false := by
  rw [List.eq_nil_iff_forall_not_mem]
  simp only [mem_departureDues, ← Option.not_isSome_iff_eq_none, ← Bool.not_eq_true]
  constructor
  · exact fun h => ⟨fun fence => h _ (.inl ⟨rfl, fence⟩),
      fun t record => h _ (.inr (.inl ⟨t, rfl, record⟩)),
      fun recheck => h _ (.inr (.inr (.inl ⟨rfl, recheck⟩))),
      fun quiesced => h _ (.inr (.inr (.inr ⟨rfl, quiesced⟩)))⟩
  · rintro ⟨fence, record, recheck, quiesced⟩ d (⟨-, due⟩ | ⟨t, -, due⟩ | ⟨-, due⟩ | ⟨-, due⟩)
    · exact fence due
    · exact record t due
    · exact recheck due
    · exact quiesced due

theorem fenceDue_eq_none_iff {s : State} : s.fenceDue? = none ↔
    (s.bc.state ≠ .clearing → ∀ f, QueueEntry.fence f ∈ s.wq.entries →
      ∀ r, s.requestOf (.entry f.pn) = some r → r.waitSet ≠ []) := by
  constructor
  · intro none live f present r found empty
    rw [State.fenceDue?, if_neg live, List.findSome?_eq_none_iff] at none
    have due := none _ present
    simp only [found, empty, List.isEmpty_nil, if_true, reduceCtorEq] at due
  · refine fun waits => Option.eq_none_iff_forall_ne_some.2 fun f due => ?_
    obtain ⟨live, present, r, found, empty⟩ := fenceDue_some due
    exact waits live f present r found empty

theorem recheckIsDue_eq_false_iff {s : State} :
    s.recheckIsDue = false ↔ (s.hif.recheckDue = true → s.heldWrite? = none) := by
  rw [← Bool.not_eq_true, recheckIsDue_iff, Option.eq_none_iff_forall_ne_some]
  simp only [not_and, not_exists, ne_eq]

theorem quiescedDue_iff {s : State} :
    s.quiescedDue = true ↔ s.bc.state = .quiescing ∧ s.drained = true := by
  rw [State.quiescedDue, Bool.and_eq_true, beq_iff_eq]

theorem attentionDue_eq_false_iff {s : State} {t : Target} : s.attentionDue t = false ↔
    ∀ r, s.au[t].record = some r → r.waitSet ≠ [] := by
  rw [← Bool.not_eq_true, attentionDue_iff]
  simp only [not_exists, not_and, ne_eq]

/-- No consequence is due where nothing waits for a drain, the attention records are those of a state
without one, and no held write is to be re-checked. -/
theorem departureDues_of_nothingWaits {s t : State} (settled : s.departureDues = [])
    (waits : nothingWaitsForDrain t) (records : t.au = s.au) (recheck : t.recheckIsDue = false) :
    t.departureDues = [] := by
  obtain ⟨noFence, noDrain⟩ := waits
  obtain ⟨-, attention, -, -⟩ := departureDues_eq_nil_iff.1 settled
  refine departureDues_eq_nil_iff.2 ⟨fenceDue_eq_none_iff.2 fun _ f present => absurd present (noFence f),
    fun x => ?_, recheck, Bool.eq_false_iff.2 fun due => noDrain (quiescedDue_iff.1 due).1⟩
  rw [attentionDue_eq_false_iff, records, ← attentionDue_eq_false_iff]
  exact attention x

/-- An arrival meets no consequence of an earlier one, whatever grant it may pass. -/
theorem departureDues_arrivePassing (passed : State → Bool) (s : State) :
    (arrivePassing passed s).departureDues = [] :=
  (duesPassing_eq_nil.1 (duesPassing_settlePassing passed (newStep s))).1

theorem departureDues_arrive (s : State) : (arrive s).departureDues = [] :=
  departureDues_arrivePassing _ s

end Sys2Proof.Machine
end

section
/-! The host cycles of the aperture: merging, entering and holding an admitted write, the re-check of
a held write, the arrival checks of a read, and hold expiry (R17 to R34, R77 to R82). -/

namespace Sys2Proof.Machine

/-! ## Bytes and lanes -/

theorem laneWord_eq_or (a b : LaneWord) :
    laneWord (highByte a) (lowByte b) = (a &&& 0xFF00#16) ||| (b &&& 0x00FF#16) := by
  ext i hi
  rw [laneWord, BitVec.getElem_append, highByte, lowByte]
  interval_cases i <;> simp

theorem lowByte_keep {lanes : Lanes} (h : lanes.hasLow = true) (data : LaneWord) :
    lowByte (lanes.keep data) = lowByte data := by
  cases lanes with
  | high => cases h
  | both => rfl
  | low =>
    ext i hi
    rw [lowByte, lowByte, Lanes.keep]
    interval_cases i <;> simp

theorem highByte_keep {lanes : Lanes} (h : lanes.hasHigh = true) (data : LaneWord) :
    highByte (lanes.keep data) = highByte data := by
  cases lanes with
  | low => cases h
  | both => rfl
  | high =>
    ext i hi
    rw [highByte, highByte, Lanes.keep]
    interval_cases i <;> simp

theorem bytesIn_eq_keep (lanes : Lanes) (data : LaneWord) : bytesIn lanes data = lanes.keep data := by
  cases lanes <;> rfl

/-! ## Merging (R26, R27) -/

theorem fetchWaitsFor_eq_false_iff {s : State} {id : RequestId} : s.fetchWaitsFor id = false ↔
    ∀ r ∈ s.ou, ∀ k, r.id = .fetch k → id ∉ r.waitSet := by
  rw [State.fetchWaitsFor, List.any_eq_false]
  refine forall₂_congr fun r _ => ?_
  cases h : r.id with
  | fetch k => simp
  | entry pn => simp
  | heldRead => simp

theorem attentionWaitsFor_eq_false_iff {s : State} {pn : PN} : s.attentionWaitsFor pn = false ↔
    ∀ x : Target, ∀ r, s.au[x].record = some r → pn ∉ r.waitSet := by
  rw [State.attentionWaitsFor, List.any_eq_false]
  constructor
  · intro none x r record member
    refine none s.au[x] (Vector.mem_toList_iff.2 (Vector.getElem_mem x.isLt)) ?_
    rw [record, Option.any_some, List.contains_iff_mem]
    exact member
  · intro none a mem holds
    obtain ⟨x, bound, rfl⟩ := Vector.mem_iff_getElem.1 (Vector.mem_toList_iff.1 mem)
    obtain ⟨r, record, member⟩ := (Option.any_eq_true _ _).1 holds
    exact none ⟨x, bound⟩ r record (List.contains_iff_mem.1 member)

theorem mergeEntry_eq_some_iff {s : State} {w : HeldWrite} {e : WriteEntry} :
    s.mergeEntry? w = some e ↔
      (∃ older, s.wq.entries = older ++ [.write e]) ∧ mayMerge s e w.target w.offset := by
  have conditions (e : WriteEntry) : ((s.live w.target).coalesce && e.target == w.target
      && e.progress == .queued && !e.begun && !e.failed && halfwordOf e.offset == halfwordOf w.offset
      && !s.fetchWaitsFor (.entry e.pn) && !s.attentionWaitsFor e.pn) = true
        ↔ mayMerge s e w.target w.offset := by
    simp only [Bool.and_eq_true, beq_iff_eq, Bool.not_eq_true', fetchWaitsFor_eq_false_iff,
      attentionWaitsFor_eq_false_iff, and_assoc]
    rfl
  rw [← List.getLast?_eq_some_iff]
  unfold State.mergeEntry?
  split
  · next f last =>
    rw [last, Option.some.injEq, QueueEntry.write.injEq]
    split
    · next merges =>
      rw [Option.some.injEq]
      exact ⟨fun same => ⟨same, same ▸ (conditions f).1 merges⟩, And.left⟩
    · next apart =>
      exact ⟨nofun, fun ⟨same, may⟩ => absurd ((conditions f).2 (same ▸ may)) apart⟩
  · next other => exact ⟨nofun, fun ⟨last, _⟩ => absurd last (other e)⟩

/-- The entry with a write merged into it, in the words of R27. -/
theorem merge_eq (e : WriteEntry) (t : Target) (offset : Offset) (lanes : Lanes) (bytes : LaneWord) :
    let union : Lanes := if e.lanes = lanes then lanes else .both
    e.merge ⟨t, offset, lanes, lanes.keep bytes⟩ = { e with
      lanes := union
      offset := if union = .both then e.offset &&& 0xFFFE#16 else e.offset
      data := (if lanes = .low then e.data &&& 0xFF00#16 else bytes &&& 0xFF00#16)
        ||| (if lanes = .high then e.data &&& 0x00FF#16 else bytes &&& 0x00FF#16) } := by
  intro union
  have union_eq : e.lanes.union lanes = union := by
    simp only [Lanes.union, union]
    split
    · next same => exact same
    · rfl
  have data : laneWord (if lanes.hasHigh then highByte (lanes.keep bytes) else highByte e.data)
      (if lanes.hasLow then lowByte (lanes.keep bytes) else lowByte e.data)
      = (if lanes = .low then e.data &&& 0xFF00#16 else bytes &&& 0xFF00#16)
        ||| (if lanes = .high then e.data &&& 0x00FF#16 else bytes &&& 0x00FF#16) := by
    cases lanes with
    | low =>
      rw [lowByte_keep rfl]
      exact laneWord_eq_or e.data bytes
    | high =>
      rw [highByte_keep rfl]
      exact laneWord_eq_or bytes e.data
    | both => exact laneWord_eq_or bytes bytes
  simp only [WriteEntry.merge, union_eq, data]
  rfl

/-- Changing the youngest entry leaves the older ones, whose posting numbers are others (R20). -/
theorem update_tail {q : WriteQueue} (wf : WriteQueueWf q) {older : List QueueEntry} {e : WriteEntry}
    (tail : q.entries = older ++ [.write e]) (f : WriteEntry → WriteEntry) :
    q.update e.pn f = { q with entries := older ++ [.write (f e)] } := by
  obtain ⟨-, distinct, -, -⟩ := wf
  rw [tail, List.map_append, List.nodup_append] at distinct
  obtain ⟨-, -, apart⟩ := distinct
  simp only [WriteQueue.update, tail, List.map_append, List.map_cons, List.map_nil, if_true]
  refine congrArg (fun entries => { q with entries := entries ++ [QueueEntry.write (f e)] }) ?_
  refine (List.map_congr_left fun x mem => ?_).trans (List.map_id older)
  have other := apart x.pn (List.mem_map_of_mem mem) e.pn (List.mem_singleton.2 rfl)
  cases x with
  | write x => exact if_neg other
  | fence g => rfl

/-! ## Admission (R24) -/

/-- A write that passes the four checks is admitted. -/
theorem takeWrite_of_admitted {s : State} {offset : Offset} {size : CycleSize} {t : Target}
    {lanes : Lanes} (running : s.bc.state = .running) (hit : s.decode offset size = .hit t lanes)
    (opened : s.admission t = .opened) (data : Word) :
    takeWrite offset size data s
      = admitWrite ⟨t, offset, lanes, lanes.keep (data.extractLsb' 0 16)⟩ s := by
  have live : s.bc.state ≠ .clearing := by simp [running]
  have notHalted : ¬ (s.admission t).isHalted = true := by simp [opened, Admission.isHalted]
  simp only [takeWrite, if_neg live, hit, if_neg notHalted, if_neg (not_not.2 running)]
  rfl

theorem admitWrite_of_merges {s : State} {w : HeldWrite} {e : WriteEntry}
    (h : s.mergeEntry? w = some e) :
    admitWrite w s = reply (.apertureWrite w.offset (.ready 0)) (updateEntry e.pn (·.merge w) s) := by
  simp only [admitWrite, h]

/-- Settles O17: the tail entry is the one merged into, and merging is `WriteEntry.merge`. -/
theorem admittedWriteMerged : Obligations.AdmittedWriteMerged := by
  intro s offset size data t lanes older e u bytes union free running hit opened wf tail may
  have merges : u.mergeEntry? ⟨t, offset, lanes, lanes.keep bytes⟩ = some e :=
    mergeEntry_eq_some_iff.2 ⟨⟨older, tail⟩, may⟩
  have changed : updateEntry e.pn (·.merge ⟨t, offset, lanes, lanes.keep bytes⟩) u = { u with
      wq := { u.wq with entries := older ++ [.write (e.merge ⟨t, offset, lanes, lanes.keep bytes⟩)] } } :=
    congrArg (fun q => { u with wq := q }) (update_tail wf tail _)
  rw [merge_eq] at changed
  calc exec (.apertureWrite offset size data) s
      = .next (takeWrite offset size data u) := exec_apertureWrite_of_hifFree free
    _ = .next (admitWrite ⟨t, offset, lanes, lanes.keep bytes⟩ u) :=
      congrArg Host.Outcome.next (takeWrite_of_admitted running hit opened data)
    _ = .next (reply (.apertureWrite offset (.ready 0))
          (updateEntry e.pn (·.merge ⟨t, offset, lanes, lanes.keep bytes⟩) u)) :=
      congrArg Host.Outcome.next (admitWrite_of_merges merges)
    _ = _ := congrArg (fun x => Host.Outcome.next (reply (.apertureWrite offset (.ready 0)) x)) changed

theorem mergeEntry_eq_none {s : State} {w : HeldWrite}
    (apart : ∀ older e, s.wq.entries = older ++ [.write e] → ¬ mayMerge s e w.target w.offset) :
    s.mergeEntry? w = none := by
  refine Option.eq_none_iff_forall_ne_some.2 fun e merges => ?_
  obtain ⟨⟨older, tail⟩, may⟩ := mergeEntry_eq_some_iff.1 merges
  exact apart older e tail may

/-- Settles O18: the room in the queue decides. -/
theorem admittedWriteEnteredOrHeld : Obligations.AdmittedWriteEnteredOrHeld := by
  intro s offset size data t lanes u bytes free running hit opened apart
  have alone : u.mergeEntry? ⟨t, offset, lanes, bytes⟩ = none := mergeEntry_eq_none apart
  rw [exec_apertureWrite_of_hifFree free, takeWrite_of_admitted running hit opened,
    ← bytesIn_eq_keep, admitWrite]
  simp only [bytes, u] at alone
  rw [alone]
  refine ⟨fun room => ?_, fun full => ?_⟩
  · simp only [if_pos (room_iff.2 room)]
    rfl
  · simp only [if_neg (mt room_iff.1 full)]
    rfl

/-! ## The re-check of a held write (R30, R33) -/

theorem takeDue_of {d : Due} {s t : State} {work : List Job} (h : runDue d s = (t, work)) :
    takeDue d s = takeJobs work t := by
  rw [takeDue, h]

/-- The re-check makes the responses it calls for. -/
theorem exec_heldWriteRecheck {s t : State} {w : HeldWrite} {work : List Job}
    (held : s.heldWrite? = some w) (due : s.hif.recheckDue = true)
    (answer : recheckHeldWrite (newStep s) = (t, work)) :
    exec .heldWriteRecheck s = .next (takeJobs work t) :=
  (congrArg Host.Outcome.next (if_pos (recheckIsDue_iff.2 ⟨due, w, held⟩))).trans
    (congrArg Host.Outcome.next (takeDue_of answer))

section
variable {s : State} {w : HeldWrite}

theorem recheckHeldWrite_of_not_running (held : s.heldWrite? = some w)
    (state : s.bc.state ≠ .running) : recheckHeldWrite s = refuseHeldWrite w .quiescing s := by
  simp only [recheckHeldWrite, held, if_pos state]

theorem recheckHeldWrite_of_halted (held : s.heldWrite? = some w) (running : s.bc.state = .running)
    (halted : ∃ fault, s.admission w.target = .halted fault) :
    recheckHeldWrite s = refuseHeldWrite w .halted s := by
  simp only [recheckHeldWrite, held, if_neg (not_not.2 running), if_pos (isHalted_iff.2 halted)]

theorem recheckHeldWrite_of_opened (held : s.heldWrite? = some w) (running : s.bc.state = .running)
    (opened : s.admission w.target = .opened) : recheckHeldWrite s =
      if s.wq.room then
        (reply (.apertureWrite w.offset (.ready 0)) (enterWrite w (endHold s)), [])
      else ({ s with hif := { s.hif with recheckDue := false } }, []) := by
  have notHalted : ¬ (s.admission w.target).isHalted = true := by simp [opened, Admission.isHalted]
  simp only [recheckHeldWrite, held, if_neg (not_not.2 running), if_neg notHalted]

end

/-- Settles O19: the bridge state first, then the target's halt, then the room. -/
theorem heldWriteRecheck : Obligations.HeldWriteRecheck := by
  intro s w u free refused held due
  have held' : u.heldWrite? = some w := held
  refine ⟨fun running opened => ?_, fun quiet => ?_⟩
  · have answer := recheckHeldWrite_of_opened (s := u) held' running opened
    refine ⟨fun room => ?_, fun full => ?_⟩
    · rw [exec_heldWriteRecheck held due (answer.trans (if_pos (room_iff.2 room))), takeJobs_nil]
      rfl
    · rw [exec_heldWriteRecheck held due (answer.trans (if_neg (mt room_iff.1 full))), takeJobs_nil]
  · have refuses {cause : NoticeCause} (answer : recheckHeldWrite u = refuseHeldWrite w cause u) :
        exec .heldWriteRecheck s = .next { u with
          hif := refused, nq := s.nq.offer (.refused w.target w.offset cause .write) } :=
      (exec_heldWriteRecheck held due answer).trans (congrArg Host.Outcome.next
        (takeJobs_offer (s := reply (.apertureWrite w.offset .busError) (endHold u)) quiet .hif _))
    refine ⟨fun state => ?_, fun running halted => ?_⟩
    · have notRunning : u.bc.state ≠ .running := by
        rcases state with state | state <;> simp [u, state]
      exact refuses (recheckHeldWrite_of_not_running held' notRunning)
    · exact refuses (recheckHeldWrite_of_halted (s := u) held' running halted)

/-! ## Aperture reads (R77, R78) -/

theorem exec_apertureRead_of_hifFree {s : State} {offset : Offset} {size : CycleSize}
    (h : hifFree (arrive s)) :
    exec (.apertureRead offset size) s = .next (takeRead offset size (arrive s)) :=
  congrArg Host.Outcome.next (apertureArrival_of_hifFree h (.read offset size))

section
variable {s : State} {offset : Offset} {size : CycleSize} {t : Target} {lanes : Lanes}

theorem takeRead_of_clearing (clearing : s.bc.state = .clearing) :
    takeRead offset size s = refuseRead offset s := if_pos clearing

theorem takeRead_of_miss {cause : NoticeCause} (live : s.bc.state ≠ .clearing)
    (miss : s.decode offset size = .miss cause) :
    takeRead offset size s = refuseRead offset (offer (.decodeMiss offset cause .read) s) := by
  simp only [takeRead, if_neg live, miss]

theorem takeRead_of_halted (live : s.bc.state ≠ .clearing)
    (hit : s.decode offset size = .hit t lanes) (halted : ∃ fault, s.admission t = .halted fault) :
    takeRead offset size s = refuseRead offset (offer (.readFault t offset lanes .halted) s) := by
  simp only [takeRead, if_neg live, hit, if_pos (isHalted_iff.2 halted)]

theorem takeRead_of_opened (live : s.bc.state ≠ .clearing)
    (hit : s.decode offset size = .hit t lanes) (opened : s.admission t = .opened) :
    takeRead offset size s = holdRead t offset lanes s := by
  have notHalted : ¬ (s.admission t).isHalted = true := by simp [opened, Admission.isHalted]
  simp only [takeRead, if_neg live, hit, if_neg notHalted]

end

/-- Settles O21: one check after another, each with the HIF free and the earlier ones passed. -/
theorem apertureReadArrival : Obligations.ApertureReadArrival := by
  intro s offset size u refused free
  rw [exec_apertureRead_of_hifFree free]
  refine ⟨fun clearing => ?_, fun live => ⟨fun cause miss => ?_, fun t lanes hit =>
    ⟨fun fault halted => ?_, fun opened => ?_⟩⟩⟩
  · rw [takeRead_of_clearing clearing]
    rfl
  · rw [takeRead_of_miss live miss]
    rfl
  · rw [takeRead_of_halted live hit ⟨fault, halted⟩]
    rfl
  · rw [takeRead_of_opened live hit opened]
    rfl

/-! ## Hold expiry (R31, R81, R82) -/

/-- Settles O22: what is held and its phase decide; an expiry in Waiting departs with nothing due. -/
theorem holdExpiry : Obligations.HoldExpiry := by
  refine ⟨fun s w limit => ?_, fun s r limit => ?_, fun s r limit => ?_⟩
  · intro u held timer
    simp only [exec, execHeldWriteHoldExpired]
    rw [held, timer]
    rfl
  · intro u held timer waiting waits
    have quiet : (reply (.apertureRead r.offset .busError) (dropHeldRead u)).departureDues = [] :=
      departureDues_of_nothingWaits (departureDues_arrivePassing _ s) waits rfl rfl
    simp only [exec, execHoldExpiryWaiting]
    rw [held, timer]
    simp only [if_pos waiting]
    rw [takeJobs_offer quiet]
    rfl
  · intro u held timer issued opened
    simp only [exec, execHoldExpiryIssued]
    rw [held, timer]
    simp only [if_pos (And.intro issued opened)]
    rfl

end Sys2Proof.Machine
end

section
/-! The issue arbiter: its choice is the eligible request of the highest rank that arrived first, and
its grant begins that request's access (R46, R51, R52, R60, R68). -/

namespace Sys2Proof.Machine

/-! ## The choice (R51) -/

theorem outranks_iff {x y : RequestId} : outranks x y ↔ x.rank < y.rank := by
  cases x <;> cases y <;> simp [outranks, RequestId.rank]

theorem rank_mem (id : RequestId) : id.rank = 1 ∨ id.rank = 2 ∨ id.rank = 3 := by
  cases id <;> simp [RequestId.rank]

/-- The eligible request of this rank that arrived first. -/
def State.firstOfRank (s : State) (k : Nat) : Option PresentRequest :=
  s.ou.find? fun r => s.eligible r && r.id.rank == k

theorem winner_eq (s : State) :
    s.winner? = (s.firstOfRank 1).or ((s.firstOfRank 2).or (s.firstOfRank 3)) := by
  simp only [State.winner?, State.firstOfRank, List.find?_filter, Bool.decide_and,
    Bool.decide_eq_true]

theorem firstOfRank_eq_none_iff {s : State} {k : Nat} :
    s.firstOfRank k = none ↔ ∀ y ∈ s.ou, s.eligible y = true → y.id.rank ≠ k := by
  rw [State.firstOfRank, List.find?_eq_none]
  simp only [Bool.and_eq_true, beq_iff_eq, not_and, ne_eq]

theorem firstOfRank_eq_some_iff {s : State} {k : Nat} {r : PresentRequest} :
    s.firstOfRank k = some r ↔ (s.eligible r = true ∧ r.id.rank = k)
      ∧ ∃ older younger, s.ou = older ++ r :: younger
        ∧ ∀ y ∈ older, s.eligible y = true → y.id.rank ≠ k := by
  rw [State.firstOfRank, List.find?_eq_some_iff_append]
  simp only [Bool.and_eq_true, beq_iff_eq, Bool.not_eq_true', ← Bool.not_eq_true, not_and, ne_eq]

/-- The arbiter's choice is the first of its rank, where no higher rank has an eligible request. -/
theorem winner_eq_some_iff_first {s : State} {r : PresentRequest} : s.winner? = some r ↔
    s.firstOfRank r.id.rank = some r ∧ ∀ k < r.id.rank, s.firstOfRank k = none := by
  have rankOf {k : Nat} (h : s.firstOfRank k = some r) : r.id.rank = k :=
    (firstOfRank_eq_some_iff.1 h).1.2
  have zero : s.firstOfRank 0 = none := firstOfRank_eq_none_iff.2 fun y _ _ => by
    have := rank_mem y.id
    omega
  rw [winner_eq]
  simp only [Option.or_eq_some_iff]
  constructor
  · rintro (first | ⟨none1, first | ⟨none2, first⟩⟩)
    · rw [rankOf first]
      refine ⟨first, fun k below => ?_⟩
      interval_cases k
      exact zero
    · rw [rankOf first]
      refine ⟨first, fun k below => ?_⟩
      interval_cases k
      · exact zero
      · exact none1
    · rw [rankOf first]
      refine ⟨first, fun k below => ?_⟩
      interval_cases k
      · exact zero
      · exact none1
      · exact none2
  · rintro ⟨first, below⟩
    obtain rank | rank | rank := rank_mem r.id <;> rw [rank] at first below
    · exact .inl first
    · exact .inr ⟨below 1 (by decide), .inl first⟩
    · exact .inr ⟨below 1 (by decide), .inr ⟨below 2 (by decide), first⟩⟩

theorem winner_eq_some_iff {s : State} {r : PresentRequest} : s.winner? = some r ↔ chosen s r := by
  rw [winner_eq_some_iff_first, firstOfRank_eq_some_iff]
  simp only [firstOfRank_eq_none_iff, chosen, outranks_iff]
  constructor
  · rintro ⟨⟨⟨eligible, -⟩, older, younger, split, first⟩, highest⟩
    have atLeast : ∀ y ∈ s.ou, s.eligible y = true → r.id.rank ≤ y.id.rank := fun y mem ey =>
      Nat.le_of_not_lt fun lower => highest _ lower y mem ey rfl
    refine ⟨older, younger, split, eligible, fun y mem ey => ?_, fun y mem ey => ?_⟩
    · exact Nat.not_lt.2 (atLeast y (by simp [split, mem]) ey)
    · exact Nat.lt_of_le_of_ne (atLeast y (by simp [split, mem]) ey) (first y mem ey).symm
  · rintro ⟨older, younger, split, eligible, later, earlier⟩
    refine ⟨⟨⟨eligible, trivial⟩, older, younger, split, fun y mem ey => (earlier y mem ey).ne'⟩,
      fun k below y mem ey same => ?_⟩
    rw [split, List.mem_append, List.mem_cons] at mem
    subst same
    rcases mem with mem | rfl | mem
    · exact Nat.lt_asymm (earlier y mem ey) below
    · exact Nat.lt_irrefl _ below
    · exact later y mem ey below

/-! ## The grant (R52, R60, R68) -/

theorem halfFor_eq (lanes : Lanes) (width : Width) (low : Bool) : halfFor lanes width low =
    if lanes = .both ∧ width = .byte then (if low then .high else .low) else .whole := by
  cases lanes <;> cases width <;> cases low <;> rfl

theorem accessFor_eq (id : RequestId) (t : Target) (c : TargetConfig) (offset : Offset)
    (lanes : Lanes) (low : Bool) (data : LaneWord) :
    accessFor id t c offset lanes low data = beginning id t c offset lanes low data := by
  have lanesOf (half : Half) : accessLanes lanes half
      = if half = .low then .low else if half = .high then .high else lanes := by
    cases half <;> rfl
  have addressOf (half : Half) : accessAddress offset half
      = if half = .high then offset + 1 else offset := by
    cases half <;> rfl
  simp only [accessFor, beginning, ← halfFor_eq, ← bytesIn_eq_keep, lanesOf, addressOf]

theorem exec_issueGrant (s : State) :
    exec .issueGrant s = .next (grantChosen (settleDepartures (newStep s))) := rfl

theorem grantChosen_of_winner {s : State} {r : PresentRequest} (free : busFree s)
    (winner : s.winner? = some r) : grantChosen s = grant r s := by
  simp only [grantChosen, mayGrant_iff.2 free, if_true, winner]

/-- What the chosen request's grant takes from its owner begins its access. -/
theorem grantChosen_of_chosen {s : State} {r : PresentRequest} {t : Target} {offset : Offset}
    {lanes : Lanes} {low : Bool} {data : LaneWord} (free : busFree s) (choice : chosen s r)
    (target : r.target = some t) (fields : s.requestFields? r.id = some (offset, lanes, low, data)) :
    grantChosen s = { markIssued r.id s with freed := none, dbe := { s.dbe with
      access := some (beginning r.id t (s.live t) offset lanes low data) } } := by
  rw [grantChosen_of_winner free (winner_eq_some_iff.2 choice), ← accessFor_eq]
  simp only [grant, target, fields, markIssued_dbe, State.live, markIssued_targets]

theorem grantChosen_of_not_due {s : State} (h : s.grantDue = false) : grantChosen s = s := by
  obtain ⟨r, free, winner, -⟩ | ⟨-, same⟩ := grantChosen_cases s
  · rw [State.grantDue, free, winner] at h
    cases h
  · exact same

/-- Settles O36: the choice by rank and arrival, and the access that begins. -/
theorem issueGrant : Obligations.IssueGrant := by
  intro s u
  refine ⟨fun idle => ?_, fun some => ?_, fun r t free choice target => ?_⟩
  · have notDue : u.grantDue = false := by
      rw [← Bool.not_eq_true, grantDue_iff, mayGrant_iff]
      rintro ⟨free, r, mem, eligible⟩
      rcases idle with busy | none
      · exact busy free
      · rw [none r mem] at eligible
        cases eligible
    exact congrArg Host.Outcome.next (grantChosen_of_not_due notDue)
  · obtain ⟨r, winner⟩ := Option.isSome_iff_exists.1 (winner_isSome.2 some)
    exact ⟨r, winner_eq_some_iff.1 winner⟩
  · intro bus
    have granted {offset : Offset} {lanes : Lanes} {low : Bool} {data : LaneWord}
        (fields : u.requestFields? r.id = some (offset, lanes, low, data)) :
        exec .issueGrant s = .next { markIssued r.id u with
          freed := none, dbe := bus offset lanes low data } :=
      congrArg Host.Outcome.next (grantChosen_of_chosen free choice target fields)
    refine ⟨fun pn e id found => ?_, fun h id held => ?_, fun k id => ?_⟩
    · exact (granted (by rw [id, State.requestFields?, found]; rfl)).trans (by rw [id]; rfl)
    · exact (granted (by rw [id, State.requestFields?, held]; rfl)).trans
        (by rw [id, markIssued, held]; rfl)
    · exact (granted (by rw [id]; rfl)).trans (by rw [id]; rfl)

/-! ## What a request is granted before (R46, R47) -/

theorem relaxed_of_ne_strict {o : OrderingClass} (h : o ≠ .strict) : o = .relaxed := by
  cases o with
  | relaxed => rfl
  | strict => exact absurd rfl h

/-- Settles O37: an older request of R43's relations would still be in the wait-set, which is empty. -/
theorem grantPassesNothingOrdered : Obligations.GrantPassesNothingOrdered := by
  intro s r older younger wf eligible split y mem
  obtain ⟨-, -, -, -, exactly⟩ := wf
  obtain ⟨empty, ⟨t, target, -⟩, -⟩ := eligible_iff.1 eligible
  have member : y.id ∈ r.waitSet ↔ s.waitsFor r.target y.target = true := by
    rw [waitSetsExact, split, List.pairwise_append] at exactly
    exact exactly.2.2 y mem r List.mem_cons_self
  rw [empty, waitsFor_iff, target] at member
  simp only [List.not_mem_nil, false_iff, not_or, not_exists, not_and] at member
  obtain ⟨notFence, -, other, strictOther, strictSelf⟩ := member
  obtain ⟨ty, yTarget⟩ := Option.ne_none_iff_exists'.1 notFence
  exact ⟨t, ty, target, yTarget, fun same => other (by rw [yTarget, same]),
    relaxed_of_ne_strict (strictSelf t rfl), relaxed_of_ne_strict (strictOther ty yTarget)⟩

/-! ## What a grant makes due -/

theorem fence_mem_update {q : WriteQueue} {pn : PN} {f : WriteEntry → WriteEntry} {g : FenceEntry} :
    .fence g ∈ (q.update pn f).entries ↔ .fence g ∈ q.entries := by
  rw [WriteQueue.update, List.mem_map]
  constructor
  · rintro ⟨x, mem, same⟩
    cases x with
    | fence h => exact same ▸ mem
    | write x =>
      dsimp only at same
      split at same <;> cases same
  · exact fun mem => ⟨_, mem, rfl⟩

/-- A grant changes entries and owners, and so makes no consequence of a departure due. -/
theorem departureDues_grant {s : State} {r : PresentRequest} (eligible : s.eligible r = true)
    (quiet : s.departureDues = []) : (grant r s).departureDues = [] := by
  obtain ⟨fence, attention, recheck, -⟩ := departureDues_eq_nil_iff.1 quiet
  obtain ⟨t, a, u, -, -, -, -, -, granted, owner⟩ := grant_cases eligible
  have frame : u.bc = s.bc ∧ u.ou = s.ou ∧ u.au = s.au
      ∧ (∀ f, QueueEntry.fence f ∈ u.wq.entries → .fence f ∈ s.wq.entries)
      ∧ (u.recheckIsDue = true → s.recheckIsDue = true) := by
    obtain ⟨pn, e, -, -, rfl⟩ | ⟨q, -, held, -, rfl⟩ | ⟨k, -, -, rfl⟩ := owner
    · exact ⟨rfl, rfl, rfl, fun f mem => fence_mem_update.1 mem, id⟩
    · refine ⟨rfl, rfl, rfl, fun f mem => mem, fun due => ?_⟩
      obtain ⟨-, w, write⟩ := recheckIsDue_iff.1 due
      cases write
    · exact ⟨rfl, rfl, rfl, fun f mem => mem, id⟩
  obtain ⟨bc, ou, au, fences, rechecks⟩ := frame
  rw [granted]
  refine departureDues_eq_nil_iff.2 ⟨fenceDue_eq_none_iff.2 ?_, fun x => ?_, ?_, ?_⟩
  · intro live f present q found
    refine fenceDue_eq_none_iff.1 fence (bc ▸ live) f (fences f present) q ?_
    simpa only [State.requestOf, ou] using found
  · rw [attentionDue_eq_false_iff]
    exact attentionDue_eq_false_iff.1 (au ▸ attention x)
  · exact Bool.eq_false_iff.2 fun due => Bool.eq_false_iff.1 recheck (rechecks due)
  · refine Bool.eq_false_iff.2 fun due => ?_
    obtain ⟨-, -, busy, -⟩ := drained_iff.1 (quiescedDue_iff.1 due).2
    cases busy

end Sys2Proof.Machine
end

section
/-! What comes before an arrival: the grant that is due and may be passed, and the stretched cycle the
HIF takes (R28, R34, R53, R75, R81, R99, R113, R149, R151). -/

namespace Sys2Proof.Machine

/-! ## One due event -/

/-- A single due event that brings nothing else about ends what is due. -/
theorem drain_single {dues : State → List Due} {s t : State} {d : Due} (due : dues s = [d])
    (run : runDue d s = (t, [])) (rest : dues t = []) {n : Nat} (pos : 0 < n) :
    drain dues n [] s = t := by
  obtain ⟨n, rfl⟩ := Nat.exists_eq_add_one.2 pos
  have step : choose (moves [] (dues s)) s = some (.due d, s) := by rw [due]; rfl
  simp only [drain, step, makeMove, run, List.append_nil]
  exact drain_of_none rest n

theorem moveBound_pos_of_idle {s : State} (idle : s.dbe.access = none) : 0 < moveBound [] s := by
  simp [moveBound, State.dueWeight, idle]

section
variable {s : State} {r : PresentRequest}

theorem clearDue_of_live (live : s.bc.state ≠ .clearing) : s.clearDue = false := by
  rw [← Bool.not_eq_true, State.clearDue, Bool.and_eq_true, beq_iff_eq]
  exact fun clearing => live clearing.1

theorem stretchedDue_of_blocked (blocked : s.hif.stretched = [] ∨ s.hif.held ≠ none)
    (noClear : s.clearDue = false) : s.stretchedDue = false := by
  rw [State.stretchedDue, noClear, Bool.or_false]
  rcases blocked with none | held
  · rw [none]
    rfl
  · rw [Option.isNone_eq_false_iff.2 (Option.isSome_iff_ne_none.2 held), Bool.and_false]

theorem runDue_grant (free : busFree s) (choice : chosen s r) : runDue .grant s = (grant r s, []) :=
  congrArg (fun t => (t, [])) (grantChosen_of_winner free (winner_eq_some_iff.2 choice))

theorem eligible_of_chosen (choice : chosen s r) : s.eligible r = true :=
  (winner_mem (winner_eq_some_iff.2 choice)).2

theorem grantDue_of_chosen (free : busFree s) (choice : chosen s r) : s.grantDue = true :=
  grantDue_iff.2 ⟨mayGrant_iff.2 free, r, winner_mem (winner_eq_some_iff.2 choice)⟩

/-- An access in flight lets no grant be due (R51). -/
theorem grantDue_grant (eligible : s.eligible r = true) : (grant r s).grantDue = false := by
  obtain ⟨t, a, u, -, -, -, -, -, granted, -⟩ := grant_cases eligible
  rw [← Bool.not_eq_true, grantDue_iff, mayGrant_iff, granted]
  rintro ⟨⟨busy, -⟩, -⟩
  cases busy

/-- A grant of a held read leaves it held, so no stretched cycle is due for it. -/
theorem stretchedDue_grant (eligible : s.eligible r = true)
    (blocked : s.hif.stretched = [] ∨ s.hif.held ≠ none) : (grant r s).stretchedDue = false := by
  obtain ⟨t, a, u, -, -, -, -, -, granted, owner⟩ := grant_cases eligible
  have still : u.hif.stretched = [] ∨ u.hif.held ≠ none := by
    obtain ⟨pn, e, -, -, rfl⟩ | ⟨q, -, held, -, rfl⟩ | ⟨k, -, -, rfl⟩ := owner
    · exact blocked
    · exact .inr nofun
    · exact blocked
  have noClear : (grant r s).clearDue = false := by
    rw [granted, State.clearDue]
    exact Bool.and_false _
  refine stretchedDue_of_blocked ?_ noClear
  rw [granted]
  exact still

theorem promptDues_grant (eligible : s.eligible r = true) (quiet : s.departureDues = []) :
    (grant r s).promptDues = [] :=
  promptDues_eq_nil.2 ⟨departureDues_grant eligible quiet,
    by rw [State.ownGrantDue, grantDue_grant eligible, Bool.false_and]⟩

theorem duesPassing_grant (passed : State → Bool) (eligible : s.eligible r = true)
    (quiet : s.departureDues = []) (blocked : s.hif.stretched = [] ∨ s.hif.held ≠ none) :
    (grant r s).duesPassing passed = [] := by
  have noGrant := grantDue_grant eligible
  obtain ⟨t, a, u, -, -, -, -, -, granted, -⟩ := grant_cases eligible
  refine duesPassing_eq_nil.2 ⟨departureDues_grant eligible quiet,
    (promptDues_eq_nil.1 (promptDues_grant eligible quiet)).2, stretchedDue_grant eligible blocked, ?_,
    fun due => absurd due (Bool.eq_false_iff.1 noGrant)⟩
  rw [granted, State.clearDue]
  exact Bool.and_false _

/-! ## The grant that is due at an arrival -/

/-- With nothing else due, what is due is the grant, unless it is one that may be passed. -/
theorem duesPassing_of_chosen {passed : State → Bool} (quiet : s.departureDues = [])
    (blocked : s.hif.stretched = [] ∨ s.hif.held ≠ none) (free : busFree s) (choice : chosen s r)
    (first : s.freed = none ∨ passed s = false) : s.duesPassing passed = [.grant] := by
  have due := grantDue_of_chosen free choice
  obtain ⟨-, -, live⟩ := free
  have noClear := clearDue_of_live live
  have noStretched := stretchedDue_of_blocked blocked noClear
  rw [State.duesPassing, State.promptDues, quiet, State.ownGrantDue, due, noStretched, noClear]
  cases freed : s.freed with
  | none => rfl
  | some by_ =>
    have notPassed : passed s = false := first.resolve_left (by rw [freed]; nofun)
    rw [notPassed]
    rfl

/-- A grant that comes before the arrival is made. -/
theorem arrivePassing_of_grant {passed : State → Bool} (quiet : s.departureDues = [])
    (blocked : s.hif.stretched = [] ∨ s.hif.held ≠ none) (free : busFree s) (choice : chosen s r)
    (first : s.freed = none ∨ passed (newStep s) = false) :
    arrivePassing passed s = newArrival (grant r (newStep s)) := by
  have eligible := eligible_of_chosen (s := newStep s) choice
  exact congrArg newArrival (drain_single
    (duesPassing_of_chosen (s := newStep s) quiet blocked free choice first)
    (runDue_grant (s := newStep s) free choice)
    (duesPassing_grant passed eligible quiet blocked) (moveBound_pos_of_idle free.1))

/-- A grant that the arrival may come before waits. -/
theorem arrivePassing_of_passed {passed : State → Bool} (quiet : s.departureDues = [])
    (blocked : s.hif.stretched = [] ∨ s.hif.held ≠ none) (free : busFree s)
    (freed : s.freed ≠ none) (passes : passed (newStep s) = true) :
    arrivePassing passed s = newArrival (newStep s) := by
  obtain ⟨-, -, live⟩ := free
  have noClear := clearDue_of_live live
  refine arrivePassing_of_none (duesPassing_eq_nil.2 ⟨quiet, ?_,
    stretchedDue_of_blocked blocked noClear, noClear, fun _ => passes⟩)
  rw [State.ownGrantDue, newStep_freed, Option.isNone_eq_false_iff.2 (Option.isSome_iff_ne_none.2 freed),
    Bool.and_false]

/-- Of the chosen request's grant, brought about by another arrival, only its own kind matters. -/
theorem freedGrantOf_of_chosen {p : PresentRequest → Bool} (free : busFree s) (choice : chosen s r)
    (freed : s.freed ≠ none) : s.freedGrantOf p = p r := by
  rw [Bool.eq_iff_iff, freedGrantOf_iff, winner_eq_some_iff.2 choice]
  simp [mayGrant_iff.2 free, freed]

end

/-! ## What an arrival meets -/

theorem consequencesTaken_of {s : State} (quiet : s.departureDues = [])
    (stretched : s.stretchedDue = false) (clear : s.clearDue = false) : consequencesTaken s := by
  obtain ⟨fence, attention, recheck, quiesced⟩ := departureDues_eq_nil_iff.1 quiet
  refine ⟨fenceDue_eq_none_iff.1 fence, fun t => attentionDue_eq_false_iff.1 (attention t),
    recheckIsDue_eq_false_iff.1 recheck, ?_, fun clearing idle => ?_, fun free => ?_⟩
  · rw [← drained_iff_slots, ← quiescedDue_iff, quiesced]
    nofun
  · rw [State.clearDue, clearing, idle] at clear
    cases clear
  · rw [State.stretchedDue, free] at stretched
    simpa using stretched

theorem eligible_eq_false_of_not_due {s : State} (notDue : s.grantDue = false) (free : busFree s) :
    ∀ r ∈ s.ou, s.eligible r = false := fun r mem => Bool.eq_false_iff.2 fun eligible =>
  Bool.eq_false_iff.1 notDue (grantDue_iff.2 ⟨mayGrant_iff.2 free, r, mem, eligible⟩)

/-- The entry an arriving write of an Open target would be merged into is the tail entry, under the
conditions of R26. -/
theorem mergesInto_of_hit {s : State} {offset : Offset} {size : CycleSize} {data : Word} {t : Target}
    {lanes : Lanes} (free : hifFree s) (running : s.bc.state = .running)
    (hit : s.decode offset size = .hit t lanes) (opened : s.admission t = .opened) :
    s.mergesInto? offset size data = s.mergeEntry? ⟨t, offset, lanes, hostBytes lanes data⟩ := by
  obtain ⟨notHeld, notStretched⟩ := free
  simp [State.mergesInto?, State.hifOccupied, notHeld, notStretched, running, hit, opened,
    Admission.isHalted]

/-- Settles O2: the conditions of what is due, and the one grant that is. -/
theorem arrivalsFindNothingDue : Obligations.ArrivalsFindNothingDue := by
  refine ⟨fun s => ?_, fun passed s => ?_, fun s settled => ?_, fun s r => ?_⟩
  · intro u
    have settled : Settled u := settled_arrive s
    obtain ⟨quiet, stretched, clear, notDue⟩ := settled_iff.1 settled
    exact ⟨settled, consequencesTaken_of quiet stretched clear, rfl,
      eligible_eq_false_of_not_due notDue⟩
  · obtain ⟨quiet, own, stretched, clear, passes⟩ :=
      duesPassing_eq_nil.1 (duesPassing_settlePassing passed (newStep s))
    refine ⟨settlePassing passed (newStep s), rfl, consequencesTaken_of quiet stretched clear,
      fun free r mem eligible => ?_⟩
    have due := grantDue_iff.2 ⟨mayGrant_iff.2 free, r, mem, eligible⟩
    refine ⟨passes due, fun none => ?_⟩
    rw [State.ownGrantDue, due, none] at own
    cases own
  · exact ⟨arrive_of_settled settled, arrivePassing_of_settled settled⟩
  · intro first quiet blocked free choice
    have granted {passed : State → Bool} (h : s.freed = none ∨ passed (newStep s) = false) :
        arrivePassing passed s = arrive s :=
      (arrivePassing_of_grant quiet blocked free choice h).trans
        (arrivePassing_of_grant quiet blocked free choice (.inr rfl)).symm
    have passed {p : State → Bool} (freed : s.freed ≠ none) (passes : p (newStep s) = true) :
        arrivePassing p s = first := arrivePassing_of_passed quiet blocked free freed passes
    have only {p : PresentRequest → Bool} (freed : s.freed ≠ none) :
        (newStep s).freedGrantOf p = p r := freedGrantOf_of_chosen (s := newStep s) free choice freed
    refine ⟨?_, fun none p => granted (.inl none), fun ended => ?_, fun other => ?_, fun freed =>
      ⟨fun id => ?_, fun id => ?_, fun k => ⟨fun id => ?_, fun id => ?_⟩,
        fun t => ⟨fun target => ?_, fun target => ?_⟩,
        fun offset size data t lanes older e hifIsFree running hit opened tail =>
          ⟨fun may id => ?_, fun apart => ?_⟩⟩⟩
    · have settled : settleDepartures (newStep s) = newStep s := drain_of_none (s := newStep s) quiet _
      rw [exec_issueGrant, settled, grantChosen_of_winner (s := newStep s) free
        (winner_eq_some_iff.2 choice), arrive, arrivePassing_of_grant quiet blocked free choice (.inr rfl)]
      obtain ⟨t, a, u, -, -, -, -, -, same, -⟩ := grant_cases (eligible_of_chosen (s := newStep s) choice)
      rw [same]
      rfl
    · exact passed (by rw [ended]; nofun) (by rw [newStep_freed, ended]; rfl)
    · exact granted (.inr (by rw [newStep_freed, other]; rfl))
    · exact passed freed (by rw [only freed, id]; rfl)
    · exact granted (.inr (by rw [only freed]; exact beq_eq_false_iff_ne.2 id))
    · exact passed freed (by rw [only freed, id]; exact beq_self_eq_true _)
    · exact granted (.inr (by rw [only freed]; exact beq_eq_false_iff_ne.2 id))
    · exact passed freed (by rw [only freed, target]; exact beq_self_eq_true _)
    · exact granted (.inr (by rw [only freed]; exact beq_eq_false_iff_ne.2 target))
    · have merges : (newStep s).mergesInto? offset size data = some e :=
        (mergesInto_of_hit (s := newStep s) hifIsFree running hit opened).trans
          (mergeEntry_eq_some_iff.2 ⟨⟨older, tail⟩, may⟩)
      refine passed freed ?_
      rw [merges, Option.any_some, only freed, id]
      exact beq_self_eq_true _
    · refine granted (.inr (Bool.eq_false_iff.2 fun passes => ?_))
      obtain ⟨x, merges, own⟩ := (Option.any_eq_true _ _).1 passes
      rw [mergesInto_of_hit (s := newStep s) hifIsFree running hit opened,
        mergeEntry_eq_some_iff] at merges
      obtain ⟨⟨older', tail'⟩, may⟩ := merges
      obtain ⟨-, same⟩ := List.append_inj' (tail.symm.trans tail') rfl
      obtain rfl := QueueEntry.write.inj (List.singleton_inj.1 same)
      rw [only freed] at own
      exact apart ⟨may, eq_of_beq own⟩

end Sys2Proof.Machine
end

section
/-! Stretched cycles: what the HIF does with one it takes is what it does with a new arrival, whatever
is stretched behind it and whatever the device bus is doing (R34, R149, R151). -/

namespace Sys2Proof.Machine

/-- A state with other cycles stretched, another device bus and another mark of the arbiter: all that a
cycle being taken does not look at. -/
def withBehind (rest : List ApertureCycle) (bus : DeviceBus) (freed : Option Freeing) (s : State) : State :=
  { s with hif := { s.hif with stretched := rest }, dbe := bus, freed := freed }

section
variable (rest : List ApertureCycle) (bus : DeviceBus) (freed : Option Freeing) (s : State)

theorem admitWrite_withBehind (w : HeldWrite) :
    admitWrite w (withBehind rest bus freed s) = withBehind rest bus freed (admitWrite w s) := by
  obtain ⟨e, merges, same⟩ | ⟨alone, room, same⟩ | ⟨alone, full, same⟩ := admitWrite_cases w s
  · rw [same]
    exact admitWrite_of_merges (s := withBehind rest bus freed s) merges
  · rw [same, admitWrite]
    have alone' : (withBehind rest bus freed s).mergeEntry? w = none := alone
    have room' : (withBehind rest bus freed s).wq.room = true := room
    rw [alone']
    exact if_pos room'
  · rw [same, admitWrite]
    have alone' : (withBehind rest bus freed s).mergeEntry? w = none := alone
    have full' : ¬ (withBehind rest bus freed s).wq.room = true := Bool.eq_false_iff.1 full
    rw [alone']
    exact if_neg full'

theorem takeWrite_withBehind (offset : Offset) (size : CycleSize) (data : Word) :
    takeWrite offset size data (withBehind rest bus freed s)
      = withBehind rest bus freed (takeWrite offset size data s) := by
  by_cases clearing : s.bc.state = .clearing
  · rw [takeWrite_of_clearing clearing, takeWrite_of_clearing (s := withBehind rest bus freed s) clearing]
    rfl
  cases decoded : s.decode offset size with
  | miss cause =>
    rw [takeWrite_of_miss clearing decoded,
      takeWrite_of_miss (s := withBehind rest bus freed s) clearing decoded]
    rfl
  | hit t lanes =>
    by_cases halted : (s.admission t).isHalted = true
    · rw [takeWrite_of_halted clearing decoded halted,
        takeWrite_of_halted (s := withBehind rest bus freed s) clearing decoded halted]
      rfl
    have opened := opened_of_enabled (decode_hit decoded).2 (Bool.eq_false_iff.2 halted)
    by_cases running : s.bc.state = .running
    · rw [takeWrite_of_admitted running decoded opened,
        takeWrite_of_admitted (s := withBehind rest bus freed s) running decoded opened]
      exact admitWrite_withBehind rest bus freed s _
    · rw [takeWrite_of_not_running clearing decoded opened running,
        takeWrite_of_not_running (s := withBehind rest bus freed s) clearing decoded opened running]
      rfl

theorem takeRead_withBehind (offset : Offset) (size : CycleSize) :
    takeRead offset size (withBehind rest bus freed s)
      = withBehind rest bus freed (takeRead offset size s) := by
  by_cases clearing : s.bc.state = .clearing
  · rw [takeRead_of_clearing clearing, takeRead_of_clearing (s := withBehind rest bus freed s) clearing]
    rfl
  cases decoded : s.decode offset size with
  | miss cause =>
    rw [takeRead_of_miss clearing decoded,
      takeRead_of_miss (s := withBehind rest bus freed s) clearing decoded]
    rfl
  | hit t lanes =>
    by_cases halted : (s.admission t).isHalted = true
    · rw [takeRead_of_halted clearing decoded (isHalted_iff.1 halted),
        takeRead_of_halted (s := withBehind rest bus freed s) clearing decoded (isHalted_iff.1 halted)]
      rfl
    · have opened := opened_of_enabled (decode_hit decoded).2 (Bool.eq_false_iff.2 halted)
      rw [takeRead_of_opened clearing decoded opened,
        takeRead_of_opened (s := withBehind rest bus freed s) clearing decoded opened]
      rfl

theorem takeCycle_withBehind (c : ApertureCycle) :
    takeCycle c (withBehind rest bus freed s) = withBehind rest bus freed (takeCycle c s) := by
  cases c with
  | write offset size data => exact takeWrite_withBehind rest bus freed s offset size data
  | read offset size => exact takeRead_withBehind rest bus freed s offset size

end

/-! ## The taking of a stretched cycle -/

/-- With no grant of a request on its own arrival due, the stretched cycle is the next (R53). -/
theorem exec_stretchedCycleTaken {s : State} (quiet : s.departureDues = [])
    (own : s.grantDue = true → s.freed ≠ none) : exec .stretchedCycleTaken s
      = .next (if s.stretchedDue then takeStretched (newStep s) else newStep s) := by
  have noOwn : s.ownGrantDue = false := by
    rw [← Bool.not_eq_true, State.ownGrantDue, Bool.and_eq_true, Option.isNone_iff_eq_none]
    exact fun ⟨due, arrived⟩ => own due arrived
  have settled : settlePrompt (newStep s) = newStep s :=
    drain_of_none (s := newStep s) (promptDues_eq_nil.2 ⟨quiet, noOwn⟩) _
  simp only [exec, execStretchedCycleTaken, settled, stretchedDue_newStep]

/-- A grant of a request on its own arrival comes before the stretched cycle (R53). -/
theorem settlePrompt_of_ownGrant {s : State} {r : PresentRequest} (quiet : s.departureDues = [])
    (free : busFree s) (choice : chosen s r) (arrived : s.freed = none) :
    settlePrompt s = grant r s := by
  have due : s.promptDues = [.grant] := by
    rw [State.promptDues, quiet, State.ownGrantDue, grantDue_of_chosen free choice, arrived]
    rfl
  exact drain_single due (runDue_grant free choice)
    (promptDues_grant (eligible_of_chosen choice) quiet) (moveBound_pos_of_idle free.1)

/-- An occupied HIF, or one with cycles stretched, stretches the arriving cycle (R34). -/
theorem apertureArrival_of_busy {s : State} (busy : ¬ hifFree s) (c : ApertureCycle) :
    apertureArrival c s = { s with hif := { s.hif with stretched := s.hif.stretched ++ [c] } } := by
  refine if_pos ?_
  rw [Bool.or_eq_true, State.hifOccupied, Option.isSome_iff_ne_none, Bool.not_eq_true',
    ← Bool.not_eq_true, List.isEmpty_iff]
  exact not_and_or.1 busy

theorem newStep_grant {s : State} {r : PresentRequest} (eligible : s.eligible r = true) :
    newStep (grant r (newStep s)) = grant r (newStep s) := by
  obtain ⟨t, a, u, -, -, -, -, -, granted, owner⟩ := grant_cases (s := newStep s) eligible
  rw [granted]
  obtain ⟨pn, e, -, -, rfl⟩ | ⟨q, -, -, -, rfl⟩ | ⟨k, -, -, rfl⟩ := owner
  · rfl
  · rfl
  · rfl

/-- The instruction a host cycle of the aperture carries. -/
def ApertureCycle.instr : ApertureCycle → Instr
  | .write offset size data => .apertureWrite offset size data
  | .read offset size => .apertureRead offset size

/-- A cycle that arrives at a settled state with a free HIF is taken there. -/
theorem exec_instr_of_settled {s : State} (settled : Settled s) (free : hifFree s)
    (c : ApertureCycle) : exec c.instr s = .next (takeCycle c (newArrival (newStep s))) := by
  cases c with
  | write offset size data =>
    have met : arriveAtWrite offset size data s = newArrival (newStep s) :=
      arrivePassing_of_settled settled _
    have free' : hifFree (arriveAtWrite offset size data s) := met ▸ free
    exact (exec_apertureWrite_of_hifFree free').trans
      (congrArg (fun u => Host.Outcome.next (takeWrite offset size data u)) met)
  | read offset size =>
    have met : arrive s = newArrival (newStep s) := arrive_of_settled settled
    have free' : hifFree (arrive s) := met ▸ free
    exact (exec_apertureRead_of_hifFree free').trans
      (congrArg (fun u => Host.Outcome.next (takeRead offset size u)) met)

/-- Settles O20: a busy HIF stretches, and one that is free takes the first as a new arrival. -/
theorem stretchedCycles : Obligations.StretchedCycles := by
  refine ⟨fun s => ⟨fun offset size data busy => ?_, fun offset size busy => ?_⟩,
    fun s c rest quiet stretched => ⟨fun due arrived => ?_, fun own => ?_⟩⟩
  · exact congrArg Host.Outcome.next (apertureArrival_of_busy busy _)
  · exact congrArg Host.Outcome.next (apertureArrival_of_busy busy _)
  · obtain ⟨may, some⟩ := grantDue_iff.1 due
    obtain ⟨r, winner⟩ := Option.isSome_iff_exists.1 (winner_isSome.2 some)
    have free : busFree (newStep s) := mayGrant_iff.1 may
    have choice : chosen (newStep s) r := winner_eq_some_iff.1 winner
    have departed : settleDepartures (newStep s) = newStep s := drain_of_none (s := newStep s) quiet _
    have eligible : s.eligible r = true := eligible_of_chosen choice
    have prompt : settlePrompt (newStep s) = grant r (newStep s) :=
      settlePrompt_of_ownGrant quiet free choice arrived
    have still : settlePrompt (newStep (grant r (newStep s))) = grant r (newStep s) := by
      rw [newStep_grant eligible]
      exact drain_of_none (promptDues_grant (s := newStep s) eligible quiet) _
    refine ⟨grant r (newStep s), ?_, ?_⟩
    · rw [exec_issueGrant, departed, grantChosen_of_winner free winner]
    · simp only [exec, execStretchedCycleTaken, prompt, still]
  · intro freed
    have taken : takeStretched (newStep s)
        = takeCycle c (withBehind rest s.dbe freed (newStep s)) :=
      takeStretched_cons (s := newStep s) stretched
    rw [exec_stretchedCycleTaken quiet own]
    have dueIff : s.stretchedDue = true ↔ s.hif.held = none ∨ s.clearDue = true := by
      rw [State.stretchedDue, stretched, Bool.and_eq_true, Bool.or_eq_true, Option.isNone_iff_eq_none]
      exact and_iff_right rfl
    refine ⟨fun bus notHeld => ?_, fun clearing free => ?_, fun held busy => ?_⟩
    · intro alone settled
      have same : withBehind rest s.dbe freed (newStep s)
          = withBehind rest s.dbe freed (newArrival (newStep alone)) := rfl
      refine ⟨takeCycle c (newArrival (newStep alone)), ?_, ?_⟩
      · have taken := exec_instr_of_settled settled ⟨notHeld, rfl⟩ c
        cases c <;> exact taken
      · rw [if_pos (dueIff.2 (.inl notHeld)), taken, same, takeCycle_withBehind]
        rfl
    · have due : s.stretchedDue = true := dueIff.2 (free.imp_right fun idle => by
        rw [State.clearDue, clearing, idle]
        rfl)
      have notDue : s.grantDue = false := by
        rw [← Bool.not_eq_true, grantDue_iff, mayGrant_iff]
        exact fun ⟨⟨_, _, live⟩, _⟩ => live clearing
      have unmarked : freed = none := by
        simp only [freed, notDue]
        rfl
      rw [if_pos due, taken, unmarked]
      cases c with
      | write offset size data =>
        exact congrArg Host.Outcome.next (takeWrite_of_clearing
          (s := withBehind rest s.dbe none (newStep s)) clearing data)
      | read offset size =>
        exact congrArg Host.Outcome.next (takeRead_of_clearing
          (s := withBehind rest s.dbe none (newStep s)) clearing)
    · refine congrArg Host.Outcome.next (if_neg fun due => ?_)
      rcases dueIff.1 due with free | clear
      · exact held free
      · rw [State.clearDue, Bool.and_eq_true, beq_iff_eq, Option.isNone_iff_eq_none] at clear
        exact busy.elim (fun live => live clear.1) fun inFlight => inFlight clear.2

end Sys2Proof.Machine
end

section
/-! The Request and Release registers of the fetch slots, by the slot's state and the decode (R90, R91,
R96, R98). -/

namespace Sys2Proof.Machine

/-! ## Request -/

theorem exec_request_of_busy {s u : State} {k : SlotNo} (met : arrive s = u)
    (busy : u.fs[k].state ≠ .free) (v : Word) : exec (.request k v) s
      = .next (registerReady (setSlot k { u.fs[k] with refused := true } u)) := by
  subst met
  exact congrArg (fun t => Host.Outcome.next (registerReady t)) (if_neg busy)

theorem exec_request_of_free {s u t : State} {k : SlotNo} {v : Word} (met : arrive s = u)
    (free : u.fs[k].state = .free) (taken : takeRequest k v u = t) :
    exec (.request k v) s = .next (registerReady t) := by
  subst met taken
  exact congrArg (fun t => Host.Outcome.next (registerReady t)) (if_pos free)

section
variable {s : State} {k : SlotNo} {v : Word}

theorem takeRequest_of_clearing (clearing : s.bc.state = .clearing) :
    takeRequest k v s = setSlot k (requestedSlot v .failed .refused 0) s := if_pos clearing

theorem takeRequest_of_miss {cause : NoticeCause} (live : s.bc.state ≠ .clearing)
    (miss : s.decodeFetch v = .miss cause) : takeRequest k v s
      = offerFetchFailed k v none .decodeMiss
          (setSlot k (requestedSlot v .failed .decodeMiss 0) s) := by
  simp only [takeRequest, if_neg live, miss]

theorem takeRequest_of_halted {t : Target} {lanes : Lanes} (live : s.bc.state ≠ .clearing)
    (hit : s.decodeFetch v = .hit t lanes) (halted : ∃ fault, s.admission t = .halted fault) :
    takeRequest k v s = offerFetchFailed k v (some t) .halted
      (setSlot k (requestedSlot v .failed .halted t) s) := by
  simp only [takeRequest, if_neg live, hit, if_pos (isHalted_iff.2 halted)]

theorem takeRequest_of_opened {t : Target} {lanes : Lanes} (live : s.bc.state ≠ .clearing)
    (hit : s.decodeFetch v = .hit t lanes) (opened : s.admission t = .opened) :
    takeRequest k v s = arriveRequest (.fetch k) (some t)
      (setSlot k (requestedSlot v .waiting .none t) s) := by
  have notHalted : ¬ (s.admission t).isHalted = true := by simp [opened, Admission.isHalted]
  simp only [takeRequest, if_neg live, hit, if_neg notHalted]

theorem oddHalfword_iff : (requestLanes v = .both ∧ (requestOffset v).getLsbD 0 = true) ↔
    requestLanes v = .both ∧ (requestOffset v).toNat % 2 = 1 := by
  rw [BitVec.getLsbD, Nat.testBit_zero, decide_eq_true_iff]

/-- A fetch misses at an odd offset with lanes Both, and where no live window holds the offset (R8). -/
theorem decodeFetch_miss
    (h : (requestLanes v = .both ∧ (requestOffset v).toNat % 2 = 1)
      ∨ s.decodeLanes (requestOffset v) (requestLanes v) = .miss .noWindow) :
    ∃ cause, s.decodeFetch v = .miss cause := by
  unfold State.decodeFetch
  split
  · exact ⟨_, rfl⟩
  · next even => exact ⟨_, h.resolve_left (mt oddHalfword_iff.2 even)⟩

theorem decodeFetch_of_even (even : ¬ (requestLanes v = .both ∧ (requestOffset v).toNat % 2 = 1)) :
    s.decodeFetch v = s.decodeLanes (requestOffset v) (requestLanes v) :=
  if_neg (mt oddHalfword_iff.1 even)

/-- A failed Request offers its notice where notify is yes (R96). -/
theorem offerFetchFailed_eq (t : Option Target) (cause : NoticeCause) :
    offerFetchFailed k v t cause s = { s with
      nq := if requestNotify v then s.nq.offer (.fetchFailed k t cause) else s.nq } := by
  unfold offerFetchFailed
  split <;> rfl

end

/-- Settles O23: the slot's state, the bridge, the decode and the target's admission, in order. -/
theorem fetchRequest : Obligations.FetchRequest := by
  intro s k v u lanes offset oddHalfword slot failed
  refine ⟨fun busy => exec_request_of_busy rfl busy v, fun free => ⟨fun clearing => ?_, fun live =>
    ⟨fun missed => ?_, fun t even hit => ⟨fun fault halted => ?_, fun opened => ?_⟩⟩⟩⟩
  · exact exec_request_of_free rfl free (takeRequest_of_clearing clearing)
  · obtain ⟨cause, miss⟩ := decodeFetch_miss (s := u) missed
    exact exec_request_of_free rfl free
      ((takeRequest_of_miss live miss).trans (offerFetchFailed_eq none .decodeMiss))
  · exact exec_request_of_free rfl free ((takeRequest_of_halted live
      ((decodeFetch_of_even even).trans hit) ⟨fault, halted⟩).trans
        (offerFetchFailed_eq (some t) .halted))
  · exact exec_request_of_free rfl free
      (takeRequest_of_opened live ((decodeFetch_of_even even).trans hit) opened)

/-! ## Release -/

theorem exec_release {s u t : State} {k : SlotNo} (met : arriveAtRelease k s = u)
    (released : releaseSlot k u = t) (v : Word) :
    exec (.release k v) s = .next (registerReady t) := by
  subst met released
  rfl

/-- Settles O24: one state of the slot after another. -/
theorem fetchRelease : Obligations.FetchRelease := by
  intro s k v u free
  refine ⟨fun idle => ?_, fun waiting => ?_, fun issued => ?_, fun ended => ?_⟩
  · have kept : releaseSlot k u = u := by
      rcases idle with state | state <;> simp only [releaseSlot, state]
    exact exec_release rfl kept v
  · have departs : releaseSlot k u = depart [.fetch k] (setSlot k u.fs[k].freed u) := by
      simp only [releaseSlot, waiting]
    exact exec_release rfl departs v
  · have cancels : releaseSlot k u = setSlot k { u.fs[k] with state := .cancelling } u := by
      simp only [releaseSlot, issued]
    exact exec_release rfl cancels v
  · have freed : releaseSlot k u = setSlot k u.fs[k].freed u := by
      rcases ended with state | state <;> simp only [releaseSlot, state]
    exact exec_release rfl freed v

end Sys2Proof.Machine
end

section
/-! The device bus through the phases of an access: the strobe and its end, the bus timers, and the pins
(R61 to R67, R71, R72). -/

namespace Sys2Proof.Machine

/-! ## The phases (R63 to R67) -/

section
variable {s u : State} {a : Access}

theorem exec_setupComplete_of (met : arrive s = u) (access : u.dbe.access = some a)
    (setup : a.phase = .setup) : exec .setupComplete s
      = .next (setAccess (some { a with phase := .strobe, strobeCount := 0 }) u) := by
  subst met
  simp only [exec, execSetupComplete, access, if_pos setup]

theorem exec_strobeTimeReached_of (met : arrive s = u) (access : u.dbe.access = some a)
    (strobe : a.phase = .strobe) (off : a.readySense = false) (lines : LaneWord) :
    exec (.strobeTimeReached lines) s = .next (setAccess
      (some (strobeDone a (u.live a.target).width a.strobe.toNat lines)) u) := by
  subst met
  simp only [exec, execStrobeTimeReached, access, if_pos (And.intro strobe off)]

theorem exec_readySampledHigh_of (met : arrive s = u) (access : u.dbe.access = some a)
    (strobe : a.phase = .strobe) (on : a.readySense = true) {count : Nat}
    (low : a.strobe.toNat ≤ count) (high : count ≤ timeoutDP a.timeout) (lines : LaneWord) :
    exec (.readySampledHigh count lines) s = .next (setAccess
      (some (strobeDone a (u.live a.target).width count lines)) u) := by
  subst met
  simp only [exec, execReadySampledHigh, access,
    if_pos (show a.phase = .strobe ∧ a.readySense = true ∧ a.strobe.toNat ≤ count
      ∧ count ≤ timeoutDP a.timeout from ⟨strobe, on, low, high⟩)]

theorem exec_accessTimeout_of (met : arrive s = u) (access : u.dbe.access = some a)
    (strobe : a.phase = .strobe) (on : a.readySense = true) :
    exec .accessTimeout s = .next (setAccess (some { a with
      phase := .hold, strobeCount := timeoutDP a.timeout, result := some .timeout }) u) := by
  subst met
  simp only [exec, execAccessTimeout, access, if_pos (And.intro strobe on)]

end

/-- Settles O38: the phase and the ready sense decide each phase's end; a timer that expires stops. -/
theorem accessPhasesAndTimers : Obligations.AccessPhasesAndTimers := by
  refine ⟨fun s a => ?_, fun s => ⟨fun t => rfl, rfl⟩⟩
  intro u now taken access
  have done (count : Nat) (lines : LaneWord) :
      strobeDone a (u.live a.target).width count lines = { a with
        phase := .hold, strobeCount := count, result := some .done, data := taken lines } := by
    cases request : a.request <;> simp [strobeDone, Access.isWrite, taken, request]
  refine ⟨fun setup => exec_setupComplete_of rfl access setup, fun strobe off lines => ?_,
    fun strobe on => ⟨fun count lines low high => ?_, exec_accessTimeout_of rfl access strobe on⟩⟩
  · rw [exec_strobeTimeReached_of rfl access strobe off, done]
    rfl
  · rw [exec_readySampledHigh_of rfl access strobe on low high, done]
    rfl

/-! ## The pins (R61 to R64, R67) -/

/-- A Read takes no write's data: its request is no write entry (R60). -/
theorem isWrite_eq_false_iff {a : Access} :
    a.isWrite = false ↔ ∀ pn, a.request ≠ .entry pn := by
  rw [← Bool.not_eq_true, isWrite_iff, not_exists]

/-- A byte-wide device gives a High byte on lines 0 to 7 (R61). -/
theorem laneWord_low_zero (lines : LaneWord) : laneWord (lowByte lines) 0 = lines <<< 8 := by
  ext i hi
  rw [laneWord, BitVec.getElem_append, lowByte]
  interval_cases i <;> simp

/-- Settles O39: the pins are a view of the access, by its lanes, phase, request and width. -/
theorem pinsFollowTheAccess : Obligations.PinsFollowTheAccess := by
  refine ⟨fun s => ⟨fun free => ?_, fun a access => ?_⟩,
    fun lines => ⟨rfl, rfl, rfl, rfl, laneWord_low_zero lines⟩,
    fun a => ⟨fun low width => ?_, fun high => ?_, fun both => ?_⟩⟩
  · simp only [State.busPins, free]
  · simp only [State.busPins, access]
    refine ⟨trivial, trivial, ?_, ?_, ?_, ?_, fun pn write => ?_, fun read => ?_⟩
    · cases a.lanes <;> simp [Lanes.hasLow]
    · cases a.lanes <;> simp [Lanes.hasHigh]
    · rw [Bool.and_eq_true, beq_iff_eq, isWrite_iff]
    · rw [Bool.and_eq_true, beq_iff_eq, Bool.not_eq_true', isWrite_eq_false_iff]
    · rw [isWrite_iff.2 ⟨pn, write⟩]
      rfl
    · rw [isWrite_eq_false_iff.2 read]
      exact ⟨rfl, rfl⟩
  · cases width <;> simp only [drivenBytes, low] <;> rfl
  · exact ⟨by simp only [drivenBytes, high]; rfl, by simp only [drivenBytes, high]; rfl⟩
  · simp only [drivenBytes, both]
    rfl

end Sys2Proof.Machine
end

section
/-! The end of an access: what it frees, which responses it calls for, and the ends that call for a
single one (R35, R36, R62, R69, R71 to R73, R75, R79, R80, R93, R94, R98). -/

namespace Sys2Proof.Machine

/-! ## The responses of an access's end -/

theorem exec_accessEnd_of {s u : State} {a : Access} (met : arrive s = u)
    (access : u.dbe.access = some a) (hold : a.phase = .hold) :
    exec .accessEnd s = .next (endAccess a u) := by
  subst met
  simp only [exec, execAccessEnd, access, if_pos hold]

/-- The state in which the end of an access is handed to the blocks (R62, R71, R72, R125). -/
def ended (a : Access) (s : State) : State := countWatches a (freeBus a s)

theorem endAccess_of_live {a : Access} {s : State} (live : s.bc.state ≠ .clearing) :
    endAccess a s = takeJobs ((freeBus a s).endJobs a) (ended a s) := by
  rw [endAccess, if_neg live]
  rfl

theorem ended_of_timeout {a : Access} {s : State} (timeout : a.result = some .timeout) :
    ended a s = freeBus a s := if_neg (by rw [timeout]; nofun)

theorem ended_of_done {a : Access} {s : State} (done : a.result = some .done) :
    ended a s = { freeBus a s with wu := s.wu.map fun c : Comparator => c.after a } := if_pos done

theorem endJobs_of_timeout {a : Access} (timeout : a.result = some .timeout) (s : State) :
    s.endJobs a = [⟨a.request.owner, .takeEnd a⟩, ⟨.tt, .halt a.target a.fault⟩] := by
  rw [State.endJobs, timeout]

theorem endJobs_of_done {a : Access} (done : a.result = some .done) (s : State) :
    s.endJobs a = ⟨a.request.owner, .takeEnd a⟩ :: s.watchJobs a := by
  rw [State.endJobs, done]

theorem watchJobs_of_none {a : Access} {s : State} (quiet : noneFires s a) : s.watchJobs a = [] := by
  refine List.flatMap_eq_nil_iff.2 fun n _ => ?_
  rw [Machine.watchJobs, quiet n]
  rfl

/-! ## What every end does to the bus (R62, R71, R72, R75) -/

/-- A timer is started unless its interval is 0 DP. -/
theorem startTimer_eq (timer : Option Nat) {interval : Nat} {none : Prop} [Decidable none]
    (h : interval = 0 ↔ none) :
    startTimer timer interval = if none then timer else some interval := by
  simp only [startTimer, h]

theorem recoveryDP_eq_zero_iff {c : TargetConfig} : c.recoveryDP = 0 ↔ c.recovery = 0 := by
  rw [TargetConfig.recoveryDP, BitVec.toNat_eq]
  exact Nat.mul_eq_zero.trans (or_iff_left (by decide))

theorem endAccess_dbe (a : Access) (s : State) : (endAccess a s).dbe = (freeBus a s).dbe := by
  by_cases clearing : s.bc.state = .clearing
  · rw [endAccess, if_pos clearing]
  · rw [endAccess_of_live clearing]
    have counted : (ended a s).dbe = (freeBus a s).dbe := by
      obtain ⟨wu, same⟩ := countWatches_frame a (freeBus a s)
      rw [ended, same]
    exact ((responds_takeJobs _ _).effects (congrArg DeviceBus.access counted)).2.trans counted

/-- Settles O40: the responses to an end leave the bus as the end left it. -/
theorem accessEndFreesTheBus : Obligations.AccessEndFreesTheBus := by
  refine ⟨fun s a => ?_, fun s a => ?_⟩
  · intro u access hold
    refine ⟨endAccess a u, exec_accessEnd_of rfl access hold, ?_⟩
    rw [endAccess_dbe]
    refine ⟨rfl, rfl, ?_, fun x other => ?_, fun ⟨pn, write⟩ => ?_, fun read => ?_⟩
    · exact (Vector.getElem_set_self _).trans (startTimer_eq _ recoveryDP_eq_zero_iff)
    · exact Vector.getElem_set_ne a.target.isLt x.isLt fun same => other (Fin.ext same.symm)
    · exact if_pos (isWrite_iff.2 ⟨pn, write⟩)
    · have isRead := isWrite_eq_false_iff.2 read
      exact (if_neg (Bool.eq_false_iff.1 isRead)).trans (startTimer_eq _
        (BitVec.toNat_eq (x := u.bc.config.turnaround) (y := 0)).symm)
  · intro u access hold clearing
    rw [exec_accessEnd_of rfl access hold, endAccess, if_pos clearing]

/-! ## One response after another -/

/-- The bound on the moves only has to be large enough. -/
theorem respond_eq_respond (n m : Nat) {work : List Job} {s : State} (hn : moveBound work s ≤ n)
    (hm : moveBound work s ≤ m) : respond n work s = respond m work s := by
  induction n generalizing m work s with
  | zero =>
    obtain rfl := jobsWeight_eq_zero.1 (Nat.eq_zero_of_add_eq_zero_right (Nat.le_zero.1 hn))
    cases m <;> rfl
  | succ n ih =>
    cases work with
    | nil => cases m <;> rfl
    | cons j js =>
      have positive : 0 < moveBound (j :: js) s := by
        refine Nat.pos_of_ne_zero fun zero => List.cons_ne_nil j js ?_
        exact jobsWeight_eq_zero.1 (Nat.eq_zero_of_add_eq_zero_right zero)
      obtain ⟨m, rfl⟩ := Nat.exists_eq_add_one.2 (positive.trans_le hm)
      simp only [respond]
      split
      · rfl
      · next move s' chosen =>
        obtain ⟨member, k, rfl⟩ := choose_cases chosen
        have lower := moveBound_makeMove_lt (fun _ => holdsFor_of_mem_departureDues) member k
        exact ih m (by omega) (by omega)

/-- Where one move alone can come next, it does, by no choice. -/
theorem takeJobs_of_move {j : Job} {js : List Job} {s : State} {m : Move}
    (only : moves (j :: js) s.departureDues = [m]) :
    takeJobs (j :: js) s = takeJobs (makeMove m (j :: js) s).2 (makeMove m (j :: js) s).1 := by
  have member : m ∈ moves (j :: js) s.departureDues := by rw [only]; exact List.mem_singleton.2 rfl
  have lower : moveBound (makeMove m (j :: js) s).2 (makeMove m (j :: js) s).1
      < moveBound (j :: js) s :=
    moveBound_makeMove_lt (fun _ => holdsFor_of_mem_departureDues) member s.choices
  obtain ⟨n, bound⟩ := Nat.exists_eq_add_one.2 (Nat.zero_lt_of_lt lower)
  rw [takeJobs, bound]
  simp only [respond, only, choose_singleton]
  exact respond_eq_respond _ _ (by omega) le_rfl

/-- A single response, where nothing is due, is made at once. -/
theorem takeJobs_single {j : Job} {s t : State} {more : List Job} (quiet : s.departureDues = [])
    (run : runTask j.task s = (t, more)) : takeJobs [j] s = takeJobs more t := by
  have only : moves [j] s.departureDues = [.job j []] := by rw [quiet, moves_single]
  rw [takeJobs_of_move only, makeMove, run]
  rfl

/-! ## Ends that call for a single response -/

/-- While a request is held the drain condition fails, so an end brings it about by no departure. -/
theorem departureDues_ended {a : Access} {s : State} (quiet : s.departureDues = [])
    (held : s.wq.entries ≠ [] ∨ s.heldRead? ≠ none ∨ ∃ k : SlotNo, s.fs[k].state.holdsRequest = true) :
    (ended a s).departureDues = [] := by
  obtain ⟨fence, attention, recheck, -⟩ := departureDues_eq_nil_iff.1 quiet
  obtain ⟨wu, same⟩ := countWatches_frame a (freeBus a s)
  rw [ended, same]
  refine departureDues_eq_nil_iff.2 ⟨fence, attention, recheck, Bool.eq_false_iff.2 fun due => ?_⟩
  obtain ⟨empty, noRead, -, idle⟩ := drained_iff.1 (quiescedDue_iff.1 due).2
  obtain entries | read | ⟨k, holds⟩ := held
  · exact entries empty
  · exact read noRead
  · exact Bool.noConfusion ((idle k).symm.trans holds)

theorem entries_ne_nil_of_find {q : WriteQueue} {pn : PN} {e : WriteEntry} (h : q.find pn = some e) :
    q.entries ≠ [] := List.ne_nil_of_mem (find_some h).1

/-- The end of a Done access on which no comparator fires is its owner's alone to take. -/
theorem exec_accessEnd_of_done {s u t : State} {a : Access} {more : List Job} (met : arrive s = u)
    (ends : endsWith u a .done) (quiet : noneFires u a)
    (held : u.wq.entries ≠ [] ∨ u.heldRead? ≠ none ∨ ∃ k : SlotNo, u.fs[k].state.holdsRequest = true)
    (run : takeEnd a (ended a u) = (t, more)) : exec .accessEnd s = .next (takeJobs more t) := by
  obtain ⟨access, hold, done, live⟩ := ends
  have settled : u.departureDues = [] := met ▸ departureDues_arrive s
  rw [exec_accessEnd_of met access hold, endAccess_of_live live, endJobs_of_done done,
    watchJobs_of_none (s := freeBus a u) quiet,
    takeJobs_single (j := ⟨_, .takeEnd a⟩) (departureDues_ended settled held) run]

/-- Settles O41: the queue takes the end, and nothing else is called for. -/
theorem writeAccessDone : Obligations.WriteAccessDone := by
  intro s a pn e u after ends request found quiet
  obtain ⟨access, hold, done, live⟩ := ends
  have counted : ended a u = after := ended_of_done done
  have found' : after.wq.find pn = some e := found
  have take : takeEnd a (ended a u) = wqTakesEnd a pn after := by
    rw [counted, takeEnd, request]
  have exec_eq {t : State} (run : wqTakesEnd a pn after = (t, [])) : exec .accessEnd s = .next t :=
    (exec_accessEnd_of_done rfl ⟨access, hold, done, live⟩ quiet
      (.inl (entries_ne_nil_of_find found)) (take.trans run)).trans (by rw [takeJobs_nil])
  exact ⟨fun low => exec_eq (wqTakesEnd_of_low found' done low),
    fun last => exec_eq (wqTakesEnd_of_last found' done last)⟩

theorem setWidth_or_eq_laneWord (a : LaneWord) (low : Byte) :
    (a &&& 0xFF00#16) ||| low.setWidth 16 = laneWord (highByte a) low := by
  ext i hi
  rw [laneWord, BitVec.getElem_append, highByte]
  interval_cases i <;> simp

/-- The bytes of a held read, in the words of R80. -/
theorem heldRead_bytesWith_eq (r : HeldRead) (a : Access) : r.bytesWith a =
    if a.half = .high then (a.data &&& 0xFF00#16) ||| (r.keptLow.getD 0).setWidth 16 else a.data := by
  unfold HeldRead.bytesWith
  cases a.half with
  | high => exact (setWidth_or_eq_laneWord a.data _).symm
  | low => rfl
  | whole => rfl

/-- The bytes of a fetch, in the words of R94. -/
theorem fetchSlot_bytesWith_eq (r : FetchSlot) (a : Access) : r.bytesWith a =
    if a.half = .high then (a.data &&& 0xFF00#16) ||| (r.data &&& 0x00FF#16) else a.data := by
  rw [FetchSlot.bytesWith, laneWord_eq_or]

/-- Settles O46: the slot takes the end, by its state and the half done. -/
theorem fetchAccessDone : Obligations.FetchAccessDone := by
  intro s a k u r after bytes ends request quiet
  obtain ⟨access, hold, done, live⟩ := ends
  have counted : ended a u = after := ended_of_done done
  have take : takeEnd a (ended a u) = fsTakesEnd a k after := by
    rw [counted, takeEnd, request]
  have same : r.bytesWith a = bytes := fetchSlot_bytesWith_eq r a
  have exec_eq {t : State} {more : List Job} (holds : r.state.holdsRequest = true)
      (run : fsTakesEnd a k after = (t, more)) : exec .accessEnd s = .next (takeJobs more t) :=
    exec_accessEnd_of_done rfl ⟨access, hold, done, live⟩ quiet (.inr (.inr ⟨k, holds⟩))
      (take.trans run)
  refine ⟨fun issued low => ?_, fun issued last told => ?_, fun cancelling => ?_⟩
  · rw [exec_eq (by rw [issued]; rfl) (fsTakesEnd_of_low (s := after) issued done low), takeJobs_nil]
    rfl
  · rw [exec_eq (by rw [issued]; rfl) (fsTakesEnd_of_last (s := after) issued done last)]
    have offered {t : State} (n : Notice) (still : r.notify = true → t.departureDues = []) :
        takeJobs (r.notices n) t = { t with nq := if r.notify then t.nq.offer n else t.nq } := by
      rw [FetchSlot.notices]
      cases notify : r.notify with
      | false => exact takeJobs_nil t
      | true => exact takeJobs_offer (still notify) .fs n
    refine congrArg Host.Outcome.next ((offered _ fun notify => ?_).trans ?_)
    · have waits := told.resolve_left (by rw [notify]; nofun)
      have settled : u.departureDues = [] := departureDues_arrive s
      exact departureDues_of_nothingWaits settled waits rfl
        (departureDues_eq_nil_iff.1 settled).2.2.1
    · rw [← same]
      rfl
  · rw [exec_eq (by rw [cancelling]; rfl)
      (fsTakesEnd_of_cancelling (s := after) cancelling done), takeJobs_nil]
    rfl

end Sys2Proof.Machine
end

section
/-! The outstanding responses as one queue of tasks for each block, and the halt that comes first among
them (R10, R12, R102, R131, R135). -/

namespace Sys2Proof.Machine

/-! ## One queue of tasks for each block -/

/-- The tasks outstanding in a block, the next one first. -/
def queueOf (work : List Job) (b : Block) : List Task := (work.filter (·.block == b)).map (·.task)

@[simp] theorem queueOf_nil (b : Block) : queueOf [] b = [] := rfl

theorem queueOf_cons (j : Job) (js : List Job) (b : Block) : queueOf (j :: js) b =
    if b = j.block then j.task :: queueOf js b else queueOf js b := by
  unfold queueOf
  by_cases h : b = j.block
  · rw [if_pos h, List.filter_cons_of_pos (by rw [h]; exact beq_self_eq_true _), List.map_cons]
  · rw [if_neg h, List.filter_cons_of_neg (by simpa using fun same => h same.symm)]

theorem queueOf_append (xs ys : List Job) (b : Block) :
    queueOf (xs ++ ys) b = queueOf xs b ++ queueOf ys b := by
  simp [queueOf]

/-- The response that comes next is the first of its block's queue (R135). -/
theorem queueOf_of_head {work : List Job} {j : Job} {rest : List Job} (h : (j, rest) ∈ heads work)
    (b : Block) : queueOf work b =
      if b = j.block then j.task :: queueOf rest b else queueOf rest b := by
  induction work generalizing j rest with
  | nil => cases h
  | cons k ks ih =>
    simp only [heads, List.mem_cons, Prod.mk.injEq, List.mem_filterMap] at h
    obtain ⟨rfl, rfl⟩ | ⟨⟨i, r⟩, hi, heq⟩ := h
    · exact queueOf_cons _ _ b
    · split at heq
      · cases heq
      · next other =>
        cases heq
        rw [queueOf_cons, queueOf_cons, ih hi]
        by_cases hb : b = k.block
        · have : ¬ b = i.block := fun same => other (same.symm.trans hb)
          rw [if_pos hb, if_pos hb, if_neg this, if_neg this]
        · rw [if_neg hb, if_neg hb]

theorem queueOf_eq_nil {work : List Job} {b : Block}
    (h : (work.all fun j => j.block != b) = true) : queueOf work b = [] := by
  rw [List.all_eq_true] at h
  rw [queueOf, List.map_eq_nil_iff, List.filter_eq_nil_iff]
  exact fun j mem same => by simpa [eq_of_beq same] using h j mem

/-- What holds of a state with the queues of tasks outstanding, and is kept by each task that is the
first of its queue and by each consequence of a departure that finds its block's queue empty, holds
once all are made. -/
theorem takeJobs_keeps {P : (Block → List Task) → State → Prop}
    (choice : ∀ {q s} n, P q s → P q { s with choices := n })
    (job : ∀ {q q' : Block → List Task} {s : State} {b : Block} {task : Task},
      q b = task :: q' b → (∀ c, c ≠ b → q c = q' c) → P q s →
      P (fun c => q' c ++ queueOf (runTask task s).2 c) (runTask task s).1)
    (due : ∀ {q : Block → List Task} {s : State} {d : Due}, d ∈ s.departureDues → q d.block = [] →
      P q s → P (fun c => q c ++ queueOf (runDue d s).2 c) (runDue d s).1)
    {work : List Job} {s : State} (start : P (queueOf work) s) : P (fun _ => []) (takeJobs work s) := by
  have responds := responds_takeJobs work s
  generalize takeJobs work s = t at responds
  induction responds with
  | done s => exact start
  | @move work s t m n _ hm _ ih =>
    have chosen := choice n start
    simp only [moves, List.mem_append, List.mem_map, List.mem_filter] at hm
    obtain ⟨⟨j, rest⟩, hj, rfl⟩ | ⟨d, ⟨mem, free⟩, rfl⟩ := hm
    · refine ih ?_
      have first := (queueOf_of_head hj j.block).trans (if_pos rfl)
      have others (c : Block) (hc : c ≠ j.block) := (queueOf_of_head hj c).trans (if_neg hc)
      have next := job first others chosen
      rwa [← funext (queueOf_append rest _)] at next
    · refine ih ?_
      have next := due (s := { s with choices := n }) (d := d) mem (queueOf_eq_nil free) chosen
      rwa [← funext (queueOf_append work _)] at next

/-! ## Halts -/

/-- A response by which the TT halts a target. -/
def Task.isHalt : Task → Bool
  | .halt _ _ => true
  | .takeEnd _ | .seeHalt _ | .offer _ => false

/-- Responses that halt no target. -/
def haltFree (more : List Job) : Prop := ∀ j ∈ more, j.block ≠ .tt ∧ j.task.isHalt = false

theorem haltFree_nil : haltFree [] := fun _ mem => absurd mem List.not_mem_nil

theorem haltFree_offer {b : Block} (other : b ≠ .tt) (n : Notice) : haltFree [⟨b, .offer n⟩] := by
  intro j mem
  obtain rfl := List.mem_singleton.1 mem
  exact ⟨other, rfl⟩

/-- The end of an access halts nothing before the TT takes its part. -/
theorem takeEnd_haltFree (a : Access) (s : State) :
    (takeEnd a s).1.targets = s.targets ∧ haltFree (takeEnd a s).2 := by
  unfold takeEnd
  split
  · next pn _ =>
    obtain ⟨-, e⟩ | ⟨_, -, ⟨-, -, e⟩ | ⟨-, -, e⟩ | ⟨-, e⟩⟩ := wqTakesEnd_cases a pn s <;> rw [e]
    · exact ⟨rfl, haltFree_nil⟩
    · exact ⟨rfl, haltFree_nil⟩
    · exact ⟨rfl, haltFree_nil⟩
    · exact ⟨rfl, haltFree_offer (by decide) _⟩
  · obtain ⟨-, e⟩ | ⟨r, -, ⟨-, e⟩ | ⟨-, e⟩ | ⟨-, -, e⟩ | ⟨_, e⟩ | ⟨_, e⟩⟩ := hifTakesEnd_cases a s <;>
      rw [e]
    · exact ⟨rfl, haltFree_nil⟩
    · refine ⟨?_, haltFree_offer (by decide) _⟩
      unfold timeOutHeldRead
      split <;> rfl
    · exact ⟨rfl, haltFree_offer (by decide) _⟩
    · exact ⟨rfl, haltFree_nil⟩
    · exact ⟨rfl, haltFree_nil⟩
    · exact ⟨rfl, haltFree_offer (by decide) _⟩
  · next k _ =>
    obtain ⟨-, e⟩ | ⟨-, e⟩ | ⟨r, work, -, -, told, e⟩ := fsTakesEnd_cases a k s <;> rw [e]
    · exact ⟨rfl, haltFree_nil⟩
    · exact ⟨rfl, haltFree_nil⟩
    · obtain rfl | ⟨n, rfl⟩ := told
      · exact ⟨rfl, haltFree_nil⟩
      · exact ⟨rfl, haltFree_offer (by decide) n⟩

theorem runTask_haltFree {task : Task} (other : task.isHalt = false) (s : State) :
    (runTask task s).1.targets = s.targets ∧ haltFree (runTask task s).2 := by
  cases task with
  | takeEnd a => exact takeEnd_haltFree a s
  | halt t fault => cases other
  | seeHalt t =>
    obtain ⟨w, -, -, e⟩ | ⟨r, -, -, -, e⟩ | e := seeHalt_cases t s <;> rw [runTask, e]
    · exact ⟨rfl, haltFree_offer (by decide) _⟩
    · exact ⟨rfl, haltFree_offer (by decide) _⟩
    · exact ⟨rfl, haltFree_nil⟩
  | offer n => exact ⟨rfl, haltFree_nil⟩

theorem runDue_haltFree {d : Due} {s : State} (due : d ∈ s.departureDues) :
    (runDue d s).1.targets = s.targets ∧ haltFree (runDue d s).2 := by
  rcases mem_departureDues.1 due with ⟨rfl, fence⟩ | ⟨t, rfl, attention⟩ | ⟨rfl, recheck⟩ | ⟨rfl, -⟩
  · obtain ⟨f, fence⟩ := Option.isSome_iff_exists.1 fence
    simp only [runDue, fence, retireFence]
    refine ⟨rfl, ?_⟩
    split
    · exact haltFree_offer (by decide) _
    · exact haltFree_nil
  · obtain ⟨r, record, -⟩ := attentionDue_iff.1 attention
    simp only [runDue, releaseAttention, record]
    exact ⟨trivial, haltFree_offer (by decide) _⟩
  · obtain ⟨-, w, held⟩ := recheckIsDue_iff.1 recheck
    obtain ⟨-, e⟩ | ⟨-, -, e⟩ | ⟨-, -, -, e⟩ | ⟨-, -, -, e⟩ := recheckHeldWrite_cases held <;>
      rw [runDue, e]
    · exact ⟨rfl, haltFree_offer (by decide) _⟩
    · exact ⟨rfl, haltFree_offer (by decide) _⟩
    · exact ⟨rfl, haltFree_nil⟩
    · exact ⟨rfl, haltFree_nil⟩
  · exact ⟨rfl, haltFree_offer (by decide) _⟩

/-- Outside the TT no task halts a target. -/
def haltsOnlyInTt (q : Block → List Task) : Prop := ∀ c, c ≠ .tt → ∀ task ∈ q c, task.isHalt = false

theorem haltsOnlyInTt_append {q : Block → List Task} {more : List Job} (h : haltsOnlyInTt q)
    (free : haltFree more) : haltsOnlyInTt fun c => q c ++ queueOf more c := by
  intro c hc task mem
  rcases List.mem_append.1 mem with mem | mem
  · exact h c hc task mem
  · obtain ⟨j, filtered, rfl⟩ := List.mem_map.1 mem
    exact (free j (List.mem_filter.1 filtered).1).2

theorem queueOf_tt_of_haltFree {more : List Job} (free : haltFree more) : queueOf more .tt = [] := by
  rw [queueOf, List.map_eq_nil_iff, List.filter_eq_nil_iff]
  exact fun j mem same => (free j mem).1 (eq_of_beq same)

theorem haltsOnlyInTt_tail {q q' : Block → List Task} {b : Block} {task : Task}
    (h : haltsOnlyInTt q) (head : q b = task :: q' b) (others : ∀ c, c ≠ b → q c = q' c) :
    haltsOnlyInTt q' := by
  intro c hc x mem
  by_cases same : c = b
  · subst same
    exact h c hc x (head ▸ List.mem_cons_of_mem _ mem)
  · exact h c hc x (others c same ▸ mem)

/-- With halts of `t` outstanding in the TT, `t` is as it was, or Halted by the first of them. -/
def Halting (s : State) (t : Target) (fault : FaultRecord) (later : List FaultRecord)
    (tt : List Task) (x : State) : Prop :=
  (tt = .halt t fault :: later.map (.halt t) ∧ x.targets = s.targets)
    ∨ ∃ rest : List FaultRecord, tt = rest.map (.halt t)
      ∧ x.targets = (s.setAdmission t (.halted fault)).targets

/-- The TT's next halt is the first, or finds its target Halted. -/
theorem halting_runTask {s x : State} {t : Target} {fault : FaultRecord} {later : List FaultRecord}
    {task : Task} {tt : List Task} (opened : s.admission t = .opened)
    (h : Halting s t fault later (task :: tt) x) :
    Halting s t fault later (tt ++ queueOf (runTask task x).2 .tt) (runTask task x).1
      ∧ haltFree (runTask task x).2 := by
  obtain ⟨tasks, targets⟩ | ⟨rest, tasks, targets⟩ := h
  · obtain ⟨rfl, rfl⟩ := List.cons.inj tasks
    have isOpened : x.admission t = .opened := by rw [State.admission, targets]; exact opened
    have run : runTask (.halt t fault) x
        = (x.setAdmission t (.halted fault), [⟨.hif, .seeHalt t⟩]) := by
      simp only [runTask, takeHalt, isOpened]
    rw [run]
    refine ⟨.inr ⟨later, List.append_nil _, ?_⟩, fun j mem => ?_⟩
    · simp only [setAdmission_targets, targets]
    · obtain rfl := List.mem_singleton.1 mem
      exact ⟨nofun, rfl⟩
  · cases rest with
    | nil => cases tasks
    | cons f fs =>
      obtain ⟨rfl, rfl⟩ := List.cons.inj tasks
      have isHalted : x.admission t = .halted fault := by
        rw [State.admission, targets]
        exact (admission_setAdmission s t t _).trans (if_pos rfl)
      have run : runTask (.halt t f) x = (x, []) := by simp only [runTask, takeHalt, isHalted]
      rw [run]
      exact ⟨.inr ⟨fs, List.append_nil _, targets⟩, haltFree_nil⟩

/-- Whatever the order of the responses, the first halt of an Open target that the TT takes is the one
recorded, and it is the only change of an admission state (R10, R131). -/
theorem takeJobs_targets_of_halt {work : List Job} {s : State} {t : Target} {fault : FaultRecord}
    {later : List FaultRecord} (first : queueOf work .tt = .halt t fault :: later.map (.halt t))
    (only : haltsOnlyInTt (queueOf work)) (opened : s.admission t = .opened) :
    (takeJobs work s).targets = (s.setAdmission t (.halted fault)).targets := by
  have kept := takeJobs_keeps (work := work) (s := s)
    (P := fun q x => haltsOnlyInTt q ∧ Halting s t fault later (q .tt) x)
    (fun n h => h) ?_ ?_ ⟨only, .inl ⟨first, rfl⟩⟩
  · obtain ⟨-, ⟨none, -⟩ | ⟨-, -, same⟩⟩ := kept
    · cases none
    · exact same
  · rintro q q' x b task head others ⟨onlyTt, halting⟩
    have onlyTt' := haltsOnlyInTt_tail onlyTt head others
    by_cases tt : b = .tt
    · subst tt
      rw [head] at halting
      obtain ⟨halting, free⟩ := halting_runTask opened halting
      exact ⟨haltsOnlyInTt_append onlyTt' free, halting⟩
    · have other := onlyTt b tt task (by rw [head]; exact List.mem_cons_self)
      obtain ⟨targets, free⟩ := runTask_haltFree other x
      refine ⟨haltsOnlyInTt_append onlyTt' free, ?_⟩
      rw [others .tt (Ne.symm tt)] at halting
      simpa only [Halting, queueOf_tt_of_haltFree free, List.append_nil, targets] using halting
  · rintro q x d due - ⟨onlyTt, halting⟩
    obtain ⟨targets, free⟩ := runDue_haltFree due
    refine ⟨haltsOnlyInTt_append onlyTt free, ?_⟩
    simpa only [Halting, queueOf_tt_of_haltFree free, List.append_nil, targets] using halting

/-! ## The halt of a timeout (R12, R102) -/

theorem owner_ne_tt (id : RequestId) : id.owner ≠ .tt := by cases id <;> nofun

/-- Settles O43: a timeout's halt is the only one, in whatever order its target's owner takes the end. -/
theorem timeoutHaltsItsTarget : Obligations.TimeoutHaltsItsTarget := by
  intro s t a u ends opened ran
  obtain ⟨access, hold, timeout, live⟩ := ends
  rw [exec_accessEnd_of rfl access hold, endAccess_of_live live, endJobs_of_timeout timeout,
    ended_of_timeout timeout] at ran
  obtain rfl := Host.Outcome.next.inj ran
  have owner := owner_ne_tt a.request
  have targets := takeJobs_targets_of_halt (work := [⟨a.request.owner, .takeEnd a⟩,
    ⟨.tt, .halt a.target a.fault⟩]) (s := freeBus a u) (later := []) (t := a.target) (fault := a.fault)
    (by simp [queueOf_cons, owner.symm]) ?_ opened
  · have admission (x : Target) : (takeJobs [⟨a.request.owner, .takeEnd a⟩,
        ⟨.tt, .halt a.target a.fault⟩] (freeBus a u)).admission x
        = if x = a.target then .halted a.fault else u.admission x := by
      rw [State.admission, targets]
      exact admission_setAdmission (freeBus a u) a.target x _
    refine ⟨fun pn id => ?_, fun id => ?_, fun k id => ?_, fun x other => ?_⟩
    · exact (admission _).trans ((if_pos rfl).trans (by rw [Access.fault, id]))
    · exact (admission _).trans ((if_pos rfl).trans (by rw [Access.fault, id]))
    · exact (admission _).trans ((if_pos rfl).trans (by rw [Access.fault, id]))
    · exact (admission x).trans (if_neg other)
  · intro c hc task mem
    rw [queueOf_cons, queueOf_cons, queueOf_nil, if_neg hc] at mem
    split at mem
    · obtain rfl := List.mem_singleton.1 mem
      rfl
    · cases mem

end Sys2Proof.Machine
end

section
/-! The part as a machine: steps, power-on reset, and the rows without a cause (R14, R31, R63 to R67, R81,
R82, R101, R132, R152). -/

namespace Sys2Proof.Machine

/-- Settles O1: the two cases of the queue of commands. -/
theorem stepTakesFrontCommand : Obligations.StepTakesFrontCommand := by
  refine ⟨fun s c rest waiting => ?_, fun s idle => ?_⟩
  · rw [step, waiting]
  · rw [step, idle]

/-! ## Power-on reset (R152) -/

/-- What every word of the register window shows after power-on reset: the map of section 12.4, one
offset after another. -/
theorem readRegister_reset : ∀ offset : BitVec 8, State.reset.readRegister offset =
    if offset = 0x00#8 then 0x02460001#32
    else if offset = 0x08#8 then 0x00000110#32
    else if offset = 0x10#8 then 0x00010001#32
    else if offset = 0x30#8 ∨ offset = 0x34#8 ∨ offset = 0x38#8 ∨ offset = 0x3C#8 then 0x00100000#32
    else if 0x80 ≤ offset.toNat ∧ offset.toNat % 16 = 4 then 0x10000141#32
    else 0 := by
  decide +kernel

/-- No register shows the kept level of an attention input, a waiting command or a choice of order. -/
theorem readRegister_of_records {s : State} {au : Vector AttentionInput 8}
    (records : ∀ t : Target, au[t].record = s.au[t].record) (waiting : List Instr) (choices : Nat)
    (offset : BitVec 8) :
    { s with au := au, pending := waiting, choices := choices }.readRegister offset
      = s.readRegister offset := by
  have shown (t : Target) :
      { s with au := au, pending := waiting, choices := choices }.targetStatus t = s.targetStatus t := by
    simp only [State.targetStatus, State.heldAttentionCount, records]
    rfl
  simp only [State.readRegister, shown]
  rfl

theorem record_reset (t : Target) : State.reset.au[t].record = none :=
  congrArg AttentionInput.record (Vector.getElem_replicate t.isLt)

/-- Settles O3: reset is a constant state but for the levels sampled, the waiting commands and the
choices of order. -/
theorem powerOnReset : Obligations.PowerOnReset := by
  refine ⟨fun s levels => ⟨_, rfl, ?_, rfl, rfl, rfl, rfl, fun k => ?_, rfl, fun x => ?_, rfl, rfl,
    fun x => ?_, fun n => ?_, rfl, rfl, rfl, rfl, fun offset => ?_, rfl, rfl⟩, ?_⟩
  · intro c x
    exact Vector.getElem_replicate x.isLt
  · exact Vector.getElem_replicate k.isLt
  · exact Vector.getElem_replicate x.isLt
  · exact Vector.getElem_ofFn x.isLt
  · exact Vector.getElem_replicate n.isLt
  · refine (readRegister_of_records (s := State.reset) (fun t => ?_) s.pending s.choices offset).trans
      (readRegister_reset offset)
    have sampled := congrArg AttentionInput.record (Vector.getElem_ofFn
      (f := fun t : Target => AttentionInput.mk (levels.getLsbD t.val) none) t.isLt)
    exact sampled.trans (record_reset t).symm
  · have low : (Vector.ofFn fun t : Target => ({ high := (0#8).getLsbD t.val, record := none } :
        AttentionInput)) = State.reset.au := by decide
    exact congrArg (fun au => Host.Outcome.next { State.reset with au := au }) low

/-- Settles O54: reset holds nothing, enables nothing and makes nothing due. -/
theorem resetMeetsInvariants : Obligations.ResetMeetsInvariants := by
  have disabled (x : Target) : ¬ (State.reset.admission x).enabled = true := by
    rw [admission_reset]
    nofun
  have settled : Settled State.reset := by decide
  have queue : WriteQueueWf State.reset.wq := ⟨by decide, by decide, nofun, by decide⟩
  have order : OrderWf State.reset := by
    refine orderWf_empty queue rfl rfl (fun id => ?_) rfl
    cases id with
    | heldRead => rfl
    | entry pn => rfl
    | fetch k => simp [State.owned, State.reset, FetchSlot.powerOn, SlotState.holdsRequest]
  have owner : accessHasOwner State.reset := accessHasOwner_of_idle rfl
    (not_shownIssued_of_empty rfl rfl fun k => by simp [State.reset])
  have faults : failedMatchesFaults State.reset := by
    refine ⟨fun x pn offset lanes data halted => ?_, nofun⟩
    rw [admission_reset] at halted
    cases halted
  exact ⟨⟨trivial, by decide, by decide, by decide⟩, queue,
    ⟨fun x enabled => absurd enabled (disabled x), fun x y _ enabled => absurd enabled (disabled x)⟩,
    nofun, comparatorsWf_reset, ⟨rfl, nofun⟩, fun x r held => (nomatch (record_reset x).symm.trans held), order,
    ⟨order, nofun, owner, faults⟩, settled⟩

/-! ## Rows without their cause (R31, R63 to R67, R81, R82) -/

/-- Settles O4: in a settled state no consequence is due, and an arrival only begins a new step. -/
theorem eventsWithoutTheirCause : Obligations.EventsWithoutTheirCause := by
  intro s settled same u
  obtain ⟨quiet, stretched, clear, notDue⟩ := settled_iff.1 settled
  obtain ⟨fence, attention, recheck, quiesced⟩ := departureDues_eq_nil_iff.1 quiet
  have met : arrive s = u := arrive_of_settled settled
  have expiry : arriveAtExpiry s = u := arrivePassing_of_settled settled _
  have skipped {b : Bool} (off : b = false) (t : State) : (if b = true then t else newStep s) = same :=
    if_neg (Bool.eq_false_iff.1 off)
  refine ⟨?_, ?_, ?_, ?_, fun t => ?_, ?_, ?_, fun none => ?_, fun none => ?_, fun none => ?_,
    fun none => ?_, fun none lines => ?_, fun count lines none => ?_, fun none => ?_, fun none => ?_⟩
  · exact congrArg Host.Outcome.next (skipped recheck _)
  · exact congrArg Host.Outcome.next (if_neg (by rw [show (newStep s).fenceDue? = none from fence]; nofun))
  · exact congrArg Host.Outcome.next (skipped quiesced _)
  · exact congrArg Host.Outcome.next (skipped clear _)
  · exact congrArg Host.Outcome.next (skipped (attention t) _)
  · have prompt := settlePrompt_of_settled settled
    simp only [exec, execStretchedCycleTaken, prompt]
    exact congrArg Host.Outcome.next (skipped stretched _)
  · rw [exec_issueGrant, settleDepartures_of_settled settled,
      grantChosen_of_not_due (s := newStep s) notDue]
    rfl
  · refine congrArg Host.Outcome.next ?_
    rw [met]
    split
    · next w timer held runs =>
      rcases none with none | stopped
      · exact absurd (held.symm.trans none) nofun
      · exact absurd (runs.symm.trans stopped) nofun
    · rfl
  · refine congrArg Host.Outcome.next ?_
    rw [expiry]
    split
    · next r timer held runs =>
      refine if_neg fun waiting => ?_
      rcases none with issued | stopped
      · exact absurd (waiting.symm.trans (issued r held)) nofun
      · exact absurd (runs.symm.trans stopped) nofun
    · rfl
  · refine congrArg Host.Outcome.next ?_
    rw [met]
    split
    · next r timer held runs =>
      refine if_neg fun ⟨issued, opened⟩ => ?_
      rcases none with other | stopped
      · rcases other r held with waiting | ended
        · exact absurd (issued.symm.trans waiting) nofun
        · exact absurd (opened.symm.trans ended) nofun
      · exact absurd (runs.symm.trans stopped) nofun
    · rfl
  · refine congrArg Host.Outcome.next ?_
    rw [met]
    split
    · next a access => exact if_neg (none a access)
    · rfl
  · refine congrArg Host.Outcome.next ?_
    rw [met]
    split
    · next a access =>
      refine if_neg fun ⟨strobe, off⟩ => ?_
      rcases none a access with other | on
      · exact other strobe
      · exact Bool.noConfusion (off.symm.trans on)
    · rfl
  · refine congrArg Host.Outcome.next ?_
    rw [met]
    split
    · next a access =>
      refine if_neg fun ⟨strobe, on, low, high⟩ => ?_
      rcases none a access with other | off | early | late
      · exact other strobe
      · exact Bool.noConfusion (off.symm.trans on)
      · exact Nat.not_lt.2 low early
      · exact Nat.not_lt.2 high late
    · rfl
  · refine congrArg Host.Outcome.next ?_
    rw [met]
    split
    · next a access =>
      refine if_neg fun ⟨strobe, on⟩ => ?_
      rcases none a access with other | off
      · exact other strobe
      · exact Bool.noConfusion (off.symm.trans on)
    · rfl
  · refine congrArg Host.Outcome.next ?_
    rw [met]
    split
    · next a access => exact if_neg (none a access)
    · rfl

end Sys2Proof.Machine
end

section
/-! Fences that retire, attention lines and the drained bridge (R36, R56, R115 to R120, R147). -/

namespace Sys2Proof.Machine

/-! ## Fences (R56) -/

/-- The oldest fence with an empty wait-set is the one due. -/
theorem fenceDue_of_oldest {s : State} {f : FenceEntry} {older younger : List QueueEntry}
    {r : PresentRequest} (live : s.bc.state ≠ .clearing)
    (entries : s.wq.entries = older ++ .fence f :: younger)
    (found : s.requestOf (.entry f.pn) = some r) (empty : r.waitSet = [])
    (before : ∀ g, QueueEntry.fence g ∈ older → ∀ q, s.requestOf (.entry g.pn) = some q →
      q.waitSet ≠ []) : s.fenceDue? = some f := by
  rw [State.fenceDue?, if_neg live, entries, List.findSome?_append, List.findSome?_cons]
  simp only [found, empty, List.isEmpty_nil, if_true]
  refine Option.or_eq_right_of_none (List.findSome?_eq_none_iff.2 fun x mem => ?_)
  cases x with
  | write e => rfl
  | fence g =>
    dsimp only
    split
    · next q foundG => exact if_neg fun none => before g mem q foundG (List.isEmpty_iff.1 none)
    · rfl

theorem exec_fenceRetired_of_due {s : State} {f : FenceEntry} (due : s.fenceDue? = some f) :
    exec .fenceRetired s
      = .next (takeJobs (retireFence f (newStep s)).2 (retireFence f (newStep s)).1) := by
  have due' : (newStep s).fenceDue? = some f := due
  have run : runDue .fence (newStep s) = retireFence f (newStep s) := by
    simp only [runDue, due']
  refine congrArg Host.Outcome.next ((if_pos (by rw [due']; rfl)).trans ?_)
  rw [takeDue, run]

/-- Settles O50: the oldest fence that can retire is the one due, and its notice waits for no other. -/
theorem fenceRetires : Obligations.FenceRetires := by
  intro s f older younger r u left live entries found empty before
  have due := fenceDue_of_oldest live entries found empty before
  rw [exec_fenceRetired_of_due due]
  refine ⟨fun silent => ?_, fun notify others => ?_⟩
  · rw [retireFence, silent]
    exact congrArg Host.Outcome.next (takeJobs_nil left)
  · rw [retireFence, notify]
    exact congrArg Host.Outcome.next (takeJobs_offer_of_block (s := left) .wq _
      fun d mem => by rw [others d mem]; rfl)

/-! ## Attention lines (R115 to R119) -/

theorem selects_iff {mode : AttentionMode} {high : Bool} : mode.selects high = true ↔
    mode = .both ∨ mode = .rising ∧ high = false ∨ mode = .falling ∧ high = true := by
  cases mode <;> cases high <;> decide

theorem edgeIsEvent_iff {s : State} {t : Target} : s.edgeIsEvent t = true ↔
    s.admission t ≠ .disabled ∧ ((s.live t).attentionMode = .both
      ∨ (s.live t).attentionMode = .rising ∧ s.au[t].high = false
      ∨ (s.live t).attentionMode = .falling ∧ s.au[t].high = true) := by
  rw [State.edgeIsEvent, Bool.and_eq_true, enabled_iff, selects_iff]

section
variable {s : State} {t : Target}

theorem takeAttention_of_unordered (off : (s.live t).attentionOrdering = false) :
    takeAttention t s = offer (.attention t 1 false) s := by
  rw [takeAttention, off]
  rfl

theorem takeAttention_of_record {r : AttentionRecord} (on : (s.live t).attentionOrdering = true)
    (record : s.au[t].record = some r) : takeAttention t s
      = setRecord t { r with count := if r.count = 15 then 15 else r.count + 1 } s := by
  simp only [takeAttention, on, record]
  rfl

theorem takeAttention_of_none (on : (s.live t).attentionOrdering = true)
    (record : s.au[t].record = none) : takeAttention t s =
      if (s.wq.pnsOf t).isEmpty then offer (.attention t 1 false) s
      else setRecord t { count := 1, writesDropped := false, waitSet := s.wq.pnsOf t } s := by
  simp only [takeAttention, on, record]
  rfl

end

/-- The level's flip and a record made at once are one change of the input. -/
theorem setRecord_flipLevel (t : Target) (r : AttentionRecord) (s : State) :
    setRecord t r (flipLevel t s)
      = { s with au := s.au.set t { high := !s.au[t].high, record := some r } } := by
  simp [setRecord, flipLevel]

/-- Settles O51: the edge is an event or not, and the ordering, the record and the entries decide. -/
theorem attentionEdges : Obligations.AttentionEdges := by
  intro s t u mode kept event input writes atOnce
  have isEvent : u.edgeIsEvent t = true ↔ event := edgeIsEvent_iff
  have flipped : flipLevel t u = { u with au := input u.au[t].record } := rfl
  have record : (flipLevel t u).au[t].record = u.au[t].record := by
    simp [flipLevel]
  have pns' : (flipLevel t u).wq.pnsOf t = writes := pnsOf_eq u.wq t
  have takes (h : event) : exec (.attentionEvent t) s = .next (takeAttention t (flipLevel t u)) :=
    congrArg Host.Outcome.next (if_pos (isEvent.2 h))
  refine ⟨fun none => ⟨congrArg Host.Outcome.next (if_neg (mt isEvent.1 none)),
      congrArg Host.Outcome.next (if_neg (mt isEvent.1 none))⟩,
    fun some => ⟨congrArg Host.Outcome.next (if_pos (isEvent.2 some)), fun off => ?_, fun on =>
      ⟨fun none empty => ?_, fun none behind => ?_, fun r held => ?_⟩⟩⟩
  · rw [takes some, takeAttention_of_unordered (s := flipLevel t u) off]
    rfl
  · rw [takes some, takeAttention_of_none (s := flipLevel t u) on (record.trans none), pns', empty]
    rfl
  · rw [takes some, takeAttention_of_none (s := flipLevel t u) on (record.trans none), pns',
      if_neg (mt List.isEmpty_iff.1 behind), setRecord_flipLevel]
  · rw [takes some, takeAttention_of_record (s := flipLevel t u) on (record.trans held),
      setRecord_flipLevel]

/-! ## Records released and the drained bridge (R120, R147) -/

/-- Settles O52: the record or the drain condition is due, and its notice waits for no other block. -/
theorem recordReleasedAndQuiesced : Obligations.RecordReleasedAndQuiesced := by
  intro s u
  refine ⟨fun t r record empty => ?_, fun quiescing entries noRead free idle => ?_⟩
  · intro left others
    have due : u.attentionDue t = true := attentionDue_iff.2 ⟨r, record, empty⟩
    have run : runDue (.attention t) u = (left, [⟨.au, .offer (.attention t r.count r.writesDropped)⟩]) :=
      releaseAttention_of_some (s := u) record
    refine congrArg Host.Outcome.next ((if_pos due).trans ?_)
    rw [takeDue_of run]
    refine takeJobs_offer_of_block .au _ fun d mem => ?_
    obtain ⟨x, rfl⟩ := others d mem
    rfl
  · intro left quiet
    have due : u.quiescedDue = true := quiescedDue_iff.2 ⟨quiescing,
      drained_iff_slots.2 ⟨entries, noRead, free, idle⟩⟩
    refine congrArg Host.Outcome.next ((if_pos due).trans ?_)
    rw [takeDue_of (d := .quiesced) (s := u) rfl]
    exact takeJobs_offer (s := left) quiet .bc .quiesced

end Sys2Proof.Machine
end

section
/-! The two threads of a timeout: the owner takes the end and offers its notice, and the halt is recorded
and seen by the HIF, each in its own order and together in any (R10, R32, R84, R102, R135). -/

namespace Sys2Proof.Machine

/-! ## Notices on their way -/

/-- The notices a block has still to offer. -/
def sends (b : Block) (notices : List Notice) : List Job := notices.map fun n => ⟨b, .offer n⟩

theorem queueOf_sends (b : Block) (notices : List Notice) (c : Block) :
    queueOf (sends b notices) c = if c = b then notices.map .offer else [] := by
  induction notices with
  | nil => exact (ite_self []).symm
  | cons n ns ih =>
    rw [sends, List.map_cons, queueOf_cons, ← sends, ih]
    by_cases h : c = b
    · simp only [if_pos h, List.map_cons]
    · simp only [if_neg h]

/-- The Notice Queue after these offers, in this order. -/
def offers (q : NoticeQueue) (notices : List Notice) : NoticeQueue := notices.foldl (·.offer ·) q

theorem offers_append_singleton (q : NoticeQueue) (notices : List Notice) (n : Notice) :
    offers q (notices ++ [n]) = (offers q notices).offer n := List.foldl_concat ..

/-- A state with this Notice Queue, after this many choices of order. -/
def noting (q : NoticeQueue) (n : Nat) (s : State) : State := { s with nq := q, choices := n }

theorem departureDues_noting (q : NoticeQueue) (n : Nat) (s : State) :
    (noting q n s).departureDues = s.departureDues := rfl

/-! ## The threads -/

/-- The end of an access taken by owner `o`, who then offers `atOwner`, and the halt of `t`, which the HIF
then sees and answers with the offers `atHif`. `core ended halted seen` is the state but for the Notice
Queue, once the end is taken, the halt recorded and seen; no departure makes anything due. -/
structure EndThreads (o : Block) (a : Access) (t : Target) (fault : FaultRecord)
    (atOwner atHif : List Notice) (core : Bool → Bool → Bool → State) : Prop where
  owner : o ≠ .tt ∧ o ≠ .hif
  takes : ∀ halted seen q n, takeEnd a (noting q n (core false halted seen))
    = (noting q n (core true halted seen), sends o atOwner)
  halts : ∀ ended q n, takeHalt t fault (noting q n (core ended false false))
    = (noting q n (core ended true false), [⟨.hif, .seeHalt t⟩])
  sees : ∀ ended q n, seeHalt t (noting q n (core ended true false))
    = (noting q n (core ended true true), sends .hif atHif)
  quiet : ∀ ended halted seen, (core ended halted seen).departureDues = []
  few : atOwner.length ≤ 1 ∧ atHif.length ≤ 1

section
variable {o : Block} {a : Access} {t : Target} {fault : FaultRecord} {atOwner atHif : List Notice}
  {core : Bool → Bool → Bool → State}

/-- The tasks outstanding in each block; `told` and `toldHif` say whose notice has been offered. -/
def threadTasks (o : Block) (a : Access) (t : Target) (fault : FaultRecord) (atOwner atHif : List Notice)
    (ended told halted seen toldHif : Bool) (c : Block) : List Task :=
  if c = o then
    if ended then (if told then [] else atOwner.map .offer) else [.takeEnd a]
  else if c = .tt then
    if halted then [] else [.halt t fault]
  else if c = .hif then
    if seen then (if toldHif then [] else atHif.map .offer)
    else if halted then [.seeHalt t] else []
  else []

/-- How far the threads have come, and what that has made of the state. -/
def ThreadsAt (o : Block) (a : Access) (t : Target) (fault : FaultRecord) (atOwner atHif : List Notice)
    (core : Bool → Bool → Bool → State) (q : Block → List Task) (x : State) : Prop :=
  ∃ ended told halted seen toldHif : Bool, ∃ (nq : NoticeQueue) (n : Nat),
    (told = true → ended = true) ∧ (toldHif = true → seen = true) ∧ (seen = true → halted = true)
    ∧ (∀ c, q c = threadTasks o a t fault atOwner atHif ended told halted seen toldHif c)
    ∧ x = noting nq n (core ended halted seen)
    ∧ (nq = offers (core false false false).nq
          ((if told then atOwner else []) ++ if toldHif then atHif else [])
        ∨ nq = offers (core false false false).nq
          ((if toldHif then atHif else []) ++ if told then atOwner else []))

theorem cons_of_map_offer {notices : List Notice} (few : notices.length ≤ 1) {task : Task}
    {rest : List Task} (h : notices.map Task.offer = task :: rest) :
    ∃ n, notices = [n] ∧ task = .offer n ∧ rest = [] := by
  match notices, few, h with
  | [], _, h => cases h
  | [n], _, h => cases h; exact ⟨n, rfl, rfl, rfl⟩

theorem tasks_after {q q' T T' : Block → List Task} {b : Block} {more : List Job}
    (others : ∀ c, c ≠ b → q c = q' c) (tasks : ∀ c, q c = T c)
    (here : q' b ++ queueOf more b = T' b)
    (elsewhere : ∀ c, c ≠ b → T c ++ queueOf more c = T' c) (c : Block) :
    q' c ++ queueOf more c = T' c := by
  by_cases h : c = b
  · exact h ▸ here
  · rw [← others c h, tasks c, elsewhere c h]

/-- The owner's next response: it takes the end, or offers its notice. -/
theorem ThreadsAt.owner (threads : EndThreads o a t fault atOwner atHif core)
    {q q' : Block → List Task} {x : State} {task : Task} (head : q o = task :: q' o)
    (others : ∀ c, c ≠ o → q c = q' c) (h : ThreadsAt o a t fault atOwner atHif core q x) :
    ThreadsAt o a t fault atOwner atHif core (fun c => q' c ++ queueOf (runTask task x).2 c)
      (runTask task x).1 := by
  obtain ⟨ended, told, halted, seen, toldHif, nq, n, toldEnded, toldSeen, seenHalted, tasks, rfl, order⟩ := h
  have first := (tasks o).symm.trans head
  rw [threadTasks, if_pos rfl] at first
  cases ended with
  | false =>
    obtain rfl : told = false := Bool.eq_false_iff.2 fun yes => Bool.noConfusion (toldEnded yes)
    obtain ⟨rfl, empty⟩ := List.cons.inj first
    have run : runTask (.takeEnd a) (noting nq n (core false halted seen))
        = (noting nq n (core true halted seen), sends o atOwner) := threads.takes halted seen nq n
    rw [run]
    refine ⟨true, false, halted, seen, toldHif, nq, n, nofun, toldSeen, seenHalted,
      tasks_after others tasks ?_ fun c hc => ?_, rfl, order⟩
    · rw [← empty, queueOf_sends, if_pos rfl, threadTasks, if_pos rfl]
      rfl
    · rw [queueOf_sends, if_neg hc, List.append_nil]
      simp only [threadTasks, if_neg hc]
  | true =>
    cases told with
    | true => cases first
    | false =>
      obtain ⟨N, rfl, rfl, empty⟩ := cons_of_map_offer threads.few.1 first
      refine ⟨true, true, halted, seen, toldHif, nq.offer N, n, fun _ => rfl, toldSeen, seenHalted,
        tasks_after others tasks ?_ fun c hc => ?_, rfl, .inr ?_⟩
      · rw [empty, threadTasks, if_pos rfl]
        rfl
      · refine (List.append_nil _).trans ?_
        simp only [threadTasks, if_neg hc]
      · simp only [if_true, offers_append_singleton]
        rcases order with order | order <;> rw [order] <;> simp

/-- The TT's response: the halt is recorded. -/
theorem ThreadsAt.tt (threads : EndThreads o a t fault atOwner atHif core)
    {q q' : Block → List Task} {x : State} {task : Task} (head : q .tt = task :: q' .tt)
    (others : ∀ c, c ≠ .tt → q c = q' c) (h : ThreadsAt o a t fault atOwner atHif core q x) :
    ThreadsAt o a t fault atOwner atHif core (fun c => q' c ++ queueOf (runTask task x).2 c)
      (runTask task x).1 := by
  obtain ⟨ended, told, halted, seen, toldHif, nq, n, toldEnded, toldSeen, seenHalted, tasks, rfl, order⟩ := h
  obtain ⟨notTt, notHif⟩ := threads.owner
  have first := (tasks .tt).symm.trans head
  rw [threadTasks, if_neg notTt.symm, if_pos rfl] at first
  cases halted with
  | true => cases first
  | false =>
    obtain rfl : seen = false := Bool.eq_false_iff.2 fun yes => Bool.noConfusion (seenHalted yes)
    obtain rfl : toldHif = false := Bool.eq_false_iff.2 fun yes => Bool.noConfusion (toldSeen yes)
    obtain ⟨rfl, empty⟩ := List.cons.inj first
    have run : runTask (.halt t fault) (noting nq n (core ended false false))
        = (noting nq n (core ended true false), [⟨.hif, .seeHalt t⟩]) := threads.halts ended nq n
    rw [run]
    refine ⟨ended, told, true, false, false, nq, n, toldEnded, nofun, nofun,
      tasks_after others tasks ?_ fun c hc => ?_, rfl, order⟩
    · rw [← empty, threadTasks, if_neg notTt.symm, if_pos rfl]
      rfl
    · rw [queueOf_cons, queueOf_nil]
      by_cases atO : c = o
      · subst atO
        simp only [threadTasks, if_pos, if_neg notHif, List.append_nil]
      · by_cases atHifBlock : c = .hif
        · subst atHifBlock
          simp [threadTasks, atO]
        · simp [threadTasks, atO, hc, atHifBlock]

/-- The HIF's next response: it sees the halt, or offers its notice. -/
theorem ThreadsAt.hif (threads : EndThreads o a t fault atOwner atHif core)
    {q q' : Block → List Task} {x : State} {task : Task} (head : q .hif = task :: q' .hif)
    (others : ∀ c, c ≠ .hif → q c = q' c) (h : ThreadsAt o a t fault atOwner atHif core q x) :
    ThreadsAt o a t fault atOwner atHif core (fun c => q' c ++ queueOf (runTask task x).2 c)
      (runTask task x).1 := by
  obtain ⟨ended, told, halted, seen, toldHif, nq, n, toldEnded, toldSeen, seenHalted, tasks, rfl, order⟩ := h
  obtain ⟨notTt, notHif⟩ := threads.owner
  have first := (tasks .hif).symm.trans head
  rw [threadTasks, if_neg notHif.symm, if_neg (by decide), if_pos rfl] at first
  cases seen with
  | false =>
    obtain rfl : toldHif = false := Bool.eq_false_iff.2 fun yes => Bool.noConfusion (toldSeen yes)
    cases halted with
    | false => cases first
    | true =>
      obtain ⟨rfl, empty⟩ := List.cons.inj first
      have run : runTask (.seeHalt t) (noting nq n (core ended true false))
          = (noting nq n (core ended true true), sends .hif atHif) := threads.sees ended nq n
      rw [run]
      refine ⟨ended, told, true, true, false, nq, n, toldEnded, nofun, fun _ => rfl,
        tasks_after others tasks ?_ fun c hc => ?_, rfl, order⟩
      · rw [← empty, queueOf_sends, if_pos rfl, threadTasks, if_neg notHif.symm, if_neg (by decide),
          if_pos rfl]
        rfl
      · rw [queueOf_sends, if_neg hc, List.append_nil]
        simp only [threadTasks, if_neg hc]
  | true =>
    cases toldHif with
    | true => cases first
    | false =>
      obtain ⟨N, rfl, rfl, empty⟩ := cons_of_map_offer threads.few.2 first
      refine ⟨ended, told, halted, true, true, nq.offer N, n, toldEnded, fun _ => rfl, seenHalted,
        tasks_after others tasks ?_ fun c hc => ?_, rfl, .inl ?_⟩
      · rw [empty, threadTasks, if_neg notHif.symm, if_neg (by decide), if_pos rfl]
        rfl
      · refine (List.append_nil _).trans ?_
        simp only [threadTasks, if_neg hc]
      · simp only [if_true, offers_append_singleton]
        rcases order with order | order <;> rw [order] <;> simp

/-- Both threads come to their ends, whatever their order; only the order of the notices shows it. -/
theorem EndThreads.takeJobs (threads : EndThreads o a t fault atOwner atHif core) :
    ∃ (n : Nat) (nq : NoticeQueue), (nq = offers (core false false false).nq (atOwner ++ atHif)
        ∨ nq = offers (core false false false).nq (atHif ++ atOwner))
      ∧ takeJobs [⟨o, .takeEnd a⟩, ⟨.tt, .halt t fault⟩] (core false false false)
        = noting nq n (core true true true) := by
  obtain ⟨notTt, notHif⟩ := threads.owner
  have last := takeJobs_keeps (P := ThreadsAt o a t fault atOwner atHif core)
    (work := [⟨o, .takeEnd a⟩, ⟨.tt, .halt t fault⟩]) (s := core false false false) ?_ ?_ ?_ ?_
  · obtain ⟨ended, told, halted, seen, toldHif, nq, n, -, -, -, tasks, same, order⟩ := last
    have atO := tasks o
    have atTt := tasks .tt
    have atHifBlock := tasks .hif
    rw [threadTasks, if_pos rfl] at atO
    rw [threadTasks, if_neg notTt.symm, if_pos rfl] at atTt
    rw [threadTasks, if_neg notHif.symm, if_neg (by decide), if_pos rfl] at atHifBlock
    cases ended with
    | false => cases atO
    | true =>
      cases halted with
      | false => cases atTt
      | true =>
        cases seen with
        | false => cases atHifBlock
        | true =>
          have allTold : (if told then atOwner else []) = atOwner := by
            cases told with
            | true => rfl
            | false => exact (List.map_eq_nil_iff.1 atO.symm).symm
          have allToldHif : (if toldHif then atHif else []) = atHif := by
            cases toldHif with
            | true => rfl
            | false => exact (List.map_eq_nil_iff.1 atHifBlock.symm).symm
          rw [allTold, allToldHif] at order
          exact ⟨n, nq, order, same⟩
  · rintro q x m ⟨ended, told, halted, seen, toldHif, nq, n, h1, h2, h3, tasks, rfl, order⟩
    exact ⟨ended, told, halted, seen, toldHif, nq, m, h1, h2, h3, tasks, rfl, order⟩
  · intro q q' x b task head others h
    by_cases atO : b = o
    · exact ThreadsAt.owner threads (atO ▸ head) (atO ▸ others) h
    by_cases atTt : b = .tt
    · exact ThreadsAt.tt threads (atTt ▸ head) (atTt ▸ others) h
    by_cases atHif : b = .hif
    · exact ThreadsAt.hif threads (atHif ▸ head) (atHif ▸ others) h
    obtain ⟨_, _, _, _, _, _, _, -, -, -, tasks, -, -⟩ := h
    have none := (tasks b).symm.trans head
    rw [threadTasks, if_neg atO, if_neg atTt, if_neg atHif] at none
    cases none
  · rintro q x d mem - ⟨ended, told, halted, seen, toldHif, nq, n, -, -, -, -, rfl, -⟩
    rw [departureDues_noting, threads.quiet] at mem
    cases mem
  · refine ⟨false, false, false, false, false, _, _, nofun, nofun, nofun, fun c => ?_, rfl, .inl rfl⟩
    rw [queueOf_cons, queueOf_cons, queueOf_nil, threadTasks]
    by_cases atO : c = o
    · rw [if_pos atO, if_pos atO, if_neg fun atTt => notTt (atO.symm.trans atTt)]
      rfl
    · rw [if_neg atO, if_neg atO]
      by_cases atTt : c = .tt
      · rw [if_pos atTt, if_pos atTt]
        rfl
      · rw [if_neg atTt, if_neg atTt]
        exact (ite_self []).symm

end

end Sys2Proof.Machine
end

section
/-! The timeouts of write entries and fetches: the owner's thread and the halt's, and what the HIF holds of
the halted target (R10, R12, R32, R35, R84, R95, R98, R103). -/

namespace Sys2Proof.Machine

/-! ## What a halt ends at the HIF (R32, R84) -/

theorem seeHalt_of_write {s : State} {w : HeldWrite} (held : s.heldWrite? = some w) :
    seeHalt w.target s = (reply (.apertureWrite w.offset .busError) (endHold s),
      sends .hif [.refused w.target w.offset .halted .write]) := by
  simp only [seeHalt, heldWrite_eq_some_iff.1 held, if_true]
  rfl

theorem seeHalt_of_waiting {s : State} {r : HeldRead} (held : s.heldRead? = some r)
    (waiting : r.phase = .waiting) :
    seeHalt r.target s = (reply (.apertureRead r.offset .busError) (dropHeldRead s),
      sends .hif [.readFault r.target r.offset r.lanes .halted]) := by
  simp only [seeHalt, heldRead_eq_some_iff.1 held, waiting, and_self, if_true]
  rfl

theorem seeHalt_of_holdsNone {s : State} {t : Target} (none : holdsNoneOf s t) :
    seeHalt t s = (s, []) := by
  obtain ⟨noWrite, noRead⟩ := none
  obtain ⟨w, held, target, -⟩ | ⟨r, held, target, waiting, -⟩ | same := seeHalt_cases t s
  · exact absurd target (noWrite w held)
  · rcases noRead r held with other | issued
    · exact absurd target other
    · exact absurd (waiting.symm.trans issued) nofun
  · exact same

theorem heldWrite_of_hif {u x : State} (same : x.hif = u.hif) : x.heldWrite? = u.heldWrite? := by
  rw [State.heldWrite?, same, ← State.heldWrite?]

theorem heldRead_of_hif {u x : State} (same : x.hif = u.hif) : x.heldRead? = u.heldRead? := by
  rw [State.heldRead?, same, ← State.heldRead?]

theorem recheckIsDue_of_hif {u x : State} (same : x.hif = u.hif) : x.recheckIsDue = u.recheckIsDue := by
  rw [State.recheckIsDue, heldWrite_of_hif same, same, ← State.recheckIsDue]

theorem holdsNoneOf_of_hif {u x : State} {t : Target} (same : x.hif = u.hif) (none : holdsNoneOf u t) :
    holdsNoneOf x t := by
  rw [holdsNoneOf, heldWrite_of_hif same, heldRead_of_hif same]
  exact none

/-! ## The state along the threads -/

/-- The state once the owner's part `E`, the halt and the HIF's part `D` are made, where they are. -/
def threadCore (E D : State → State) (t : Target) (fault : FaultRecord) (s : State)
    (ended halted seen : Bool) : State :=
  (if seen then D else id) ((if halted then (·.setAdmission t (.halted fault)) else id)
    ((if ended then E else id) s))

/-- The threads of a timeout, from what the owner and the HIF do on their own. -/
theorem endThreads_of {o : Block} {a : Access} {t : Target} {fault : FaultRecord}
    {atOwner atHif : List Notice} {E D : State → State} {s : State} (owner : o ≠ .tt ∧ o ≠ .hif)
    (opened : s.admission t = .opened) (untouched : (E s).targets = s.targets)
    (takes : ∀ halted seen q n, takeEnd a (noting q n (threadCore E D t fault s false halted seen))
      = (noting q n (threadCore E D t fault s true halted seen), sends o atOwner))
    (sees : ∀ ended q n, seeHalt t (noting q n (threadCore E D t fault s ended true false))
      = (noting q n (threadCore E D t fault s ended true true), sends .hif atHif))
    (quiet : ∀ ended halted seen, (threadCore E D t fault s ended halted seen).departureDues = [])
    (few : atOwner.length ≤ 1 ∧ atHif.length ≤ 1) :
    EndThreads o a t fault atOwner atHif (threadCore E D t fault s) where
  owner := owner
  takes := takes
  sees := sees
  quiet := quiet
  few := few
  halts ended q n := by
    have isOpened : (noting q n (threadCore E D t fault s ended false false)).admission t = .opened := by
      cases ended with
      | false => exact opened
      | true =>
        refine Eq.trans ?_ opened
        exact congrArg (fun targets : Vector TargetEntry 8 => targets[t].admission) untouched
    simp only [takeHalt, isOpened]
    rfl

/-- The consequences of departures stay undue where the fences wait as they did, the records are kept,
no held write is to be re-checked, and work is left that keeps the bridge from draining. -/
theorem departureDues_of_working {u x : State} (settled : u.departureDues = []) (bc : x.bc = u.bc)
    (au : x.au = u.au) (ou : x.ou = u.ou)
    (fences : ∀ f, QueueEntry.fence f ∈ x.wq.entries → .fence f ∈ u.wq.entries)
    (recheck : x.recheckIsDue = false) (working : x.wq.entries ≠ []) : x.departureDues = [] := by
  obtain ⟨fence, attention, -, -⟩ := departureDues_eq_nil_iff.1 settled
  refine departureDues_eq_nil_iff.2 ⟨fenceDue_eq_none_iff.2 ?_, fun y => ?_, recheck, ?_⟩
  · intro live f present q found
    refine fenceDue_eq_none_iff.1 fence (bc ▸ live) f (fences f present) q ?_
    simpa only [State.requestOf, ou] using found
  · rw [attentionDue_eq_false_iff, au, ← attentionDue_eq_false_iff]
    exact attention y
  · exact Bool.eq_false_iff.2 fun due => working (drained_iff.1 (quiescedDue_iff.1 due).2).1

theorem exec_accessEnd_of_timeout {s u : State} {a : Access} (met : arrive s = u)
    (ends : endsWith u a .timeout) : exec .accessEnd s = .next (takeJobs
      [⟨a.request.owner, .takeEnd a⟩, ⟨.tt, .halt a.target a.fault⟩] (freeBus a u)) := by
  obtain ⟨access, hold, timeout, live⟩ := ends
  rw [exec_accessEnd_of met access hold, endAccess_of_live live, endJobs_of_timeout timeout,
    ended_of_timeout timeout]

/-! ## Write entries (R35, R103) -/

theorem update_entries_ne_nil {q : WriteQueue} {pn : PN} {f : WriteEntry → WriteEntry}
    (h : q.entries ≠ []) : (q.update pn f).entries ≠ [] := by
  rw [WriteQueue.update]
  exact mt List.map_eq_nil_iff.1 h

section
variable {s u : State} {a : Access} {pn : PN} {e : WriteEntry} {D : State → State}
  {atHif : List Notice}

/-- The timeout of a write entry, from what its halt ends at the HIF. -/
theorem writeTimeout_threads (ends : endsWith u a .timeout) (request : a.request = .entry pn)
    (found : u.wq.find pn = some e) (opened : u.admission a.target = .opened)
    (keeps : ∀ x, (D x).wq = x.wq) (commutes : ∀ x, updateEntry pn (failedEntry a) (D x)
      = D (updateEntry pn (failedEntry a) x))
    (sees : ∀ x q n, x.hif = u.hif → seeHalt a.target (noting q n x) = (noting q n (D x), sends .hif atHif))
    (quiet : ∀ ended halted seen, (threadCore (updateEntry pn (failedEntry a)) D a.target a.fault
      (freeBus a u) ended halted seen).departureDues = [])
    (few : atHif.length ≤ 1) :
    EndThreads .wq a a.target a.fault [.writeFault e.target pn a.address a.lanes a.data .timeout] atHif
      (threadCore (updateEntry pn (failedEntry a)) D a.target a.fault (freeBus a u)) := by
  obtain ⟨-, -, timeout, -⟩ := ends
  refine endThreads_of ⟨by decide, by decide⟩ opened rfl (fun halted seen q n => ?_)
    (fun ended q n => ?_) quiet ⟨le_rfl, few⟩
  · have found' : (noting q n (threadCore (updateEntry pn (failedEntry a)) D a.target a.fault
        (freeBus a u) false halted seen)).wq.find pn = some e := by
      cases seen with
      | false => cases halted <;> exact found
      | true =>
        refine Eq.trans (congrArg (fun q : WriteQueue => q.find pn) (keeps _)) ?_
        cases halted <;> exact found
    rw [takeEnd, request]
    refine (wqTakesEnd_of_timeout found' timeout).trans (congrArg (fun x => (x, _)) ?_)
    cases seen with
    | false => cases halted <;> rfl
    | true => cases halted <;> exact congrArg (noting q n) (commutes _)
  · cases ended <;> exact sees _ q n rfl

/-- Before the HIF sees the halt, the threads have changed the target's admission and the entry alone. -/
theorem writeTimeout_reached {D : State → State} (u : State) (a : Access) (pn : PN)
    (ended halted : Bool) : ∃ x,
      threadCore (updateEntry pn (failedEntry a)) D a.target a.fault (freeBus a u) ended halted false = x
      ∧ threadCore (updateEntry pn (failedEntry a)) D a.target a.fault (freeBus a u) ended halted true = D x
      ∧ x.bc = u.bc ∧ x.au = u.au ∧ x.ou = u.ou ∧ x.hif = u.hif
      ∧ (x.wq = u.wq ∨ x.wq = u.wq.update pn (failedEntry a)) := by
  refine ⟨_, rfl, rfl, ?_⟩
  cases ended <;> cases halted
  · exact ⟨rfl, rfl, rfl, rfl, .inl rfl⟩
  · exact ⟨rfl, rfl, rfl, rfl, .inl rfl⟩
  · exact ⟨rfl, rfl, rfl, rfl, .inr rfl⟩
  · exact ⟨rfl, rfl, rfl, rfl, .inr rfl⟩

/-- A write entry is left, and so no end of its access, and no drop of a held cycle, makes anything due. -/
theorem writeTimeout_quiet (settled : u.departureDues = []) (found : u.wq.find pn = some e)
    (wq : ∀ x, (D x).wq = x.wq) (bc : ∀ x, (D x).bc = x.bc) (au : ∀ x, (D x).au = x.au)
    (ou : ∀ x, (D x).ou = x.ou) (recheck : ∀ x, x.hif = u.hif → (D x).recheckIsDue = false)
    (ended halted seen : Bool) : (threadCore (updateEntry pn (failedEntry a)) D a.target a.fault
      (freeBus a u) ended halted seen).departureDues = [] := by
  obtain ⟨-, -, before, -⟩ := departureDues_eq_nil_iff.1 settled
  have entries : u.wq.entries ≠ [] := entries_ne_nil_of_find found
  have frame {x y : State} (bc : y.bc = x.bc) (au : y.au = x.au) (ou : y.ou = x.ou) (wq : y.wq = x.wq)
      (recheck : y.recheckIsDue = false) (same : x.bc = u.bc ∧ x.au = u.au ∧ x.ou = u.ou)
      (queue : x.wq = u.wq ∨ x.wq = u.wq.update pn (failedEntry a)) : y.departureDues = [] := by
    obtain ⟨bc', au', ou'⟩ := same
    rw [← wq] at queue
    rcases queue with queue | queue
    · exact departureDues_of_working settled (bc.trans bc') (au.trans au') (ou.trans ou')
        (fun f h => queue ▸ h) recheck (queue ▸ entries)
    · exact departureDues_of_working settled (bc.trans bc') (au.trans au') (ou.trans ou')
        (fun f h => fence_mem_update.1 (queue ▸ h)) recheck (queue ▸ update_entries_ne_nil entries)
  obtain ⟨x, unseen, isSeen, bc', au', ou', hif, queue⟩ :=
    writeTimeout_reached (D := D) u a pn ended halted
  cases seen with
  | false =>
    rw [unseen]
    exact frame rfl rfl rfl rfl ((recheckIsDue_of_hif hif).trans before) ⟨bc', au', ou'⟩ queue
  | true =>
    rw [isSeen]
    exact frame (bc x) (au x) (ou x) (wq x) (recheck x hif) ⟨bc', au', ou'⟩ queue

/-- The Open target of a timed out write entry is Halted, and its entry failed, in every order. -/
theorem exec_accessEnd_of_writeTimeout (met : arrive s = u) (ends : endsWith u a .timeout)
    (request : a.request = .entry pn)
    (threads : EndThreads .wq a a.target a.fault
      [.writeFault e.target pn a.address a.lanes a.data .timeout] atHif
      (threadCore (updateEntry pn (failedEntry a)) D a.target a.fault (freeBus a u))) :
    ∃ n nq, (nq = offers u.nq
          (.writeFault e.target pn a.address a.lanes a.data .timeout :: atHif)
        ∨ nq = offers u.nq
          (atHif ++ [.writeFault e.target pn a.address a.lanes a.data .timeout]))
      ∧ exec .accessEnd s = .next (noting nq n (D ((updateEntry pn (failedEntry a)
          (freeBus a u)).setAdmission a.target (.halted a.fault)))) := by
  obtain ⟨n, nq, order, last⟩ := threads.takeJobs
  refine ⟨n, nq, order, ?_⟩
  rw [exec_accessEnd_of_timeout met ends, request]
  exact congrArg Host.Outcome.next last

end

/-- Settles O42: the two threads, with what the halt ends at the HIF. -/
theorem writeAccessTimeout : Obligations.WriteAccessTimeout := by
  intro s a pn e u fault after ends request found opened
  have settled : u.departureDues = [] := departureDues_arrive s
  obtain ⟨-, -, recheck, -⟩ := departureDues_eq_nil_iff.1 settled
  have record : a.fault = .writeTimeout pn a.address a.lanes a.data := by rw [Access.fault, request]
  refine ⟨fun none => ?_, fun w held target => ?_, fun r held target waiting waits => ?_⟩
  · have threads := writeTimeout_threads (D := id) (atHif := []) ends request found opened
      (fun _ => rfl) (fun _ => rfl)
      (fun x q n same => seeHalt_of_holdsNone (holdsNoneOf_of_hif (u := u) same none))
      (writeTimeout_quiet settled found (fun _ => rfl) (fun _ => rfl) (fun _ => rfl) (fun _ => rfl)
        fun x same => (recheckIsDue_of_hif same).trans recheck) (by decide)
    obtain ⟨n, nq, order, ran⟩ := exec_accessEnd_of_writeTimeout rfl ends request threads
    refine ⟨n, ran.trans ?_⟩
    obtain rfl : nq = u.nq.offer fault := order.elim id id
    rw [record]
    rfl
  · intro refused
    have threads := writeTimeout_threads (atHif := [refused])
      (D := fun x => reply (.apertureWrite w.offset .busError) (endHold x)) ends request found opened
      (fun _ => rfl) (fun _ => rfl) (fun x q n same => ?_)
      (writeTimeout_quiet settled found (fun _ => rfl) (fun _ => rfl) (fun _ => rfl) (fun _ => rfl)
        fun _ _ => rfl) le_rfl
    · obtain ⟨n, nq, order, ran⟩ := exec_accessEnd_of_writeTimeout rfl ends request threads
      refine ⟨n, nq, order, ran.trans ?_⟩
      rw [record]
      rfl
    · have held' : (noting q n x).heldWrite? = some w :=
        (heldWrite_of_hif (u := u) (x := noting q n x) same).trans held
      simp only [refused, ← target]
      exact seeHalt_of_write held'
  · intro ended
    have threads := writeTimeout_threads (atHif := [ended])
      (D := fun x => reply (.apertureRead r.offset .busError) (dropHeldRead x)) ends request found opened
      (fun _ => rfl) (fun _ => rfl) (fun x q n same => ?_)
      (fun e h d => ?_) le_rfl
    · obtain ⟨n, nq, order, ran⟩ := exec_accessEnd_of_writeTimeout rfl ends request threads
      refine ⟨n, nq, order, ran.trans ?_⟩
      rw [record]
      rfl
    · have held' : (noting q n x).heldRead? = some r :=
        (heldRead_of_hif (u := u) (x := noting q n x) same).trans held
      simp only [ended, ← target]
      exact seeHalt_of_waiting held' waiting
    · obtain ⟨x, unseen, isSeen, bc, au, -, hif, queue⟩ := writeTimeout_reached
        (D := fun x => reply (.apertureRead r.offset .busError) (dropHeldRead x)) u a pn e h
      have waits' : nothingWaitsForDrain x := by
        obtain ⟨noFence, noDrain⟩ := waits
        refine ⟨fun f mem => ?_, bc ▸ noDrain⟩
        rcases queue with queue | queue
        · exact noFence f (queue ▸ mem)
        · exact noFence f (fence_mem_update.1 (queue ▸ mem))
      cases d with
      | false =>
        rw [unseen]
        exact departureDues_of_nothingWaits settled waits' au ((recheckIsDue_of_hif hif).trans recheck)
      | true =>
        rw [isSeen]
        exact departureDues_of_nothingWaits settled waits' au rfl

end Sys2Proof.Machine
end

section
/-! The timeout of a fetch, its slot's thread beside the halt's (R12, R32, R84, R95, R96, R98). -/

namespace Sys2Proof.Machine

/-! ## Departures in any order -/

theorem strike_strike (xs ys : List RequestId) (ou : List PresentRequest) :
    strike ys (strike xs ou) = strike (xs ++ ys) ou := by
  simp only [strike, List.filter_map, List.map_map, List.filter_filter]
  congr 1
  · funext r
    simp [List.filter_filter, Bool.and_comm]
  · exact List.filter_congr fun r _ => by simp [Bool.and_comm]

theorem strike_append_comm (xs ys : List RequestId) (ou : List PresentRequest) :
    strike (xs ++ ys) ou = strike (ys ++ xs) ou := by
  simp only [strike, List.contains_eq_mem, List.mem_append, or_comm]

theorem strike_comm (xs ys : List RequestId) (ou : List PresentRequest) :
    strike ys (strike xs ou) = strike xs (strike ys ou) := by
  rw [strike_strike, strike_append_comm, ← strike_strike]

/-! ## The slot's thread -/

section
variable {s u : State} {a : Access} {k : SlotNo} {slot : FetchSlot} {D : State → State}
  {atOwner atHif : List Notice}

/-- A slot's last response to its access. -/
def freeSlot (k : SlotNo) (slot : FetchSlot) (s : State) : State :=
  depart [.fetch k] (setSlot k slot s)

/-- The end of a fetch's timeout, from what its slot offers and what its halt ends at the HIF. -/
theorem exec_accessEnd_of_fetchTimeout (met : arrive s = u) (ends : endsWith u a .timeout)
    (request : a.request = .fetch k) (opened : u.admission a.target = .opened)
    (waits : nothingWaitsForDrain u)
    (takes : ∀ x, x.fs = u.fs → fsTakesEnd a k x = (freeSlot k slot x, sends .fs atOwner))
    (frame : ∀ x, (D x).fs = x.fs ∧ (D x).wq = x.wq ∧ (D x).bc = x.bc ∧ (D x).au = x.au)
    (commutes : ∀ x, freeSlot k slot (D x) = D (freeSlot k slot x))
    (noted : ∀ x q n, D (noting q n x) = noting q n (D x))
    (sees : ∀ x, x.hif = u.hif → seeHalt a.target x = (D x, sends .hif atHif))
    (recheck : ∀ x, x.hif = u.hif → (D x).recheckIsDue = false)
    (few : atOwner.length ≤ 1 ∧ atHif.length ≤ 1) :
    ∃ n nq, (nq = offers u.nq (atOwner ++ atHif) ∨ nq = offers u.nq (atHif ++ atOwner))
      ∧ exec .accessEnd s = .next (noting nq n (D ((freeSlot k slot
          (freeBus a u)).setAdmission a.target (.halted a.fault)))) := by
  have settled : u.departureDues = [] := met ▸ departureDues_arrive s
  obtain ⟨-, -, undue, -⟩ := departureDues_eq_nil_iff.1 settled
  have threads : EndThreads .fs a a.target a.fault atOwner atHif
      (threadCore (freeSlot k slot) D a.target a.fault (freeBus a u)) := by
    refine endThreads_of ⟨by decide, by decide⟩ opened rfl (fun halted seen q n => ?_)
      (fun ended q n => ?_) (fun ended halted seen => ?_) few
    · have slots : (noting q n (threadCore (freeSlot k slot) D a.target a.fault (freeBus a u)
          false halted seen)).fs = u.fs := by
        cases seen with
        | false => cases halted <;> rfl
        | true =>
          refine (frame _).1.trans ?_
          cases halted <;> rfl
      rw [takeEnd, request]
      refine (takes _ slots).trans (congrArg (fun x => (x, _)) ?_)
      cases seen with
      | false => cases halted <;> rfl
      | true => cases halted <;> exact congrArg (noting q n) (commutes _)
    · have hif : (threadCore (freeSlot k slot) D a.target a.fault (freeBus a u) ended true false).hif
          = u.hif := by cases ended <;> rfl
      exact (sees (noting q n (threadCore (freeSlot k slot) D a.target a.fault (freeBus a u) ended true
        false)) hif).trans (congrArg (fun x => (x, sends .hif atHif)) (noted _ q n))
    · obtain ⟨x, unseen, isSeen, wq, bc, au, hif⟩ : ∃ x,
          threadCore (freeSlot k slot) D a.target a.fault (freeBus a u) ended halted false = x
          ∧ threadCore (freeSlot k slot) D a.target a.fault (freeBus a u) ended halted true = D x
          ∧ x.wq = u.wq ∧ x.bc = u.bc ∧ x.au = u.au ∧ x.hif = u.hif := by
        refine ⟨_, rfl, rfl, ?_⟩
        cases ended <;> cases halted <;> exact ⟨rfl, rfl, rfl, rfl⟩
      obtain ⟨-, wq', bc', au'⟩ := frame x
      cases seen with
      | false =>
        rw [unseen]
        refine departureDues_of_nothingWaits settled ?_ au ((recheckIsDue_of_hif hif).trans undue)
        rw [nothingWaitsForDrain, wq, bc]
        exact waits
      | true =>
        rw [isSeen]
        refine departureDues_of_nothingWaits settled ?_ (au'.trans au) (recheck x hif)
        rw [nothingWaitsForDrain, wq', bc', wq, bc]
        exact waits
  obtain ⟨n, nq, order, last⟩ := threads.takeJobs
  refine ⟨n, nq, order, ?_⟩
  rw [exec_accessEnd_of_timeout met ends, request]
  exact congrArg Host.Outcome.next last

end

/-! What each end comes to, field by field. -/

section
variable (u : State) (a : Access) (k : SlotNo) (slot : FetchSlot) (t : Target) (fault : FaultRecord)
  (answer : HostReply) (q : NoticeQueue) (n : Nat)

theorem noting_freeSlot :
    noting q n ((freeSlot k slot (freeBus a u)).setAdmission t (.halted fault))
      = { freeBus a u with
          nq := q, choices := n, ou := (depart [.fetch k] u).ou, fs := u.fs.set k slot
          targets := u.targets.set t { u.targets[t] with admission := .halted fault } } := rfl

theorem noting_endHold_freeSlot :
    noting q n (reply answer (endHold ((freeSlot k slot (freeBus a u)).setAdmission t (.halted fault))))
      = { freeBus a u with
          nq := q, choices := n, ou := (depart [.fetch k] u).ou, fs := u.fs.set k slot
          targets := u.targets.set t { u.targets[t] with admission := .halted fault }
          hif := { u.hif with
            held := none, holdTimer := none, recheckDue := false
            replies := u.hif.replies ++ [answer] } } := rfl

theorem noting_dropHeldRead_freeSlot :
    noting q n (reply answer (dropHeldRead ((freeSlot k slot (freeBus a u)).setAdmission t (.halted fault))))
      = { freeBus a u with
          nq := q, choices := n, ou := (depart [.fetch k, .heldRead] u).ou, fs := u.fs.set k slot
          targets := u.targets.set t { u.targets[t] with admission := .halted fault }
          hif := { u.hif with
            held := none, holdTimer := none, recheckDue := false
            replies := u.hif.replies ++ [answer] } } := by
  have departed := strike_strike [.fetch k] [.heldRead] u.ou
  rw [List.singleton_append] at departed
  rw [depart_ou, ← departed]
  rfl

end

/-- Settles O47: the slot's thread beside the halt's, with what the halt ends at the HIF. -/
theorem fetchAccessTimeout : Obligations.FetchAccessTimeout := by
  intro s a k u r slot failed after offered gone ends request opened waits state
  have settled : u.departureDues = [] := departureDues_arrive s
  obtain ⟨-, -, undue, -⟩ := departureDues_eq_nil_iff.1 settled
  have timeout : a.result = some .timeout := ends.2.2.1
  have record : a.fault = .fetchTimeout a.address a.lanes k := by rw [Access.fault, request]
  have takes (x : State) (same : x.fs = u.fs) :
      fsTakesEnd a k x = (freeSlot k slot x, sends .fs failed) := by
    have slotIs : x.fs[k] = r := by rw [same]
    rcases state with issued | cancelling
    · have sent : r.notices (.fetchFailed k (some r.target) .timeout) = sends .fs failed := by
        simp only [FetchSlot.notices, failed, issued, true_and]
        split <;> rfl
      rw [fsTakesEnd_of_timeout (by rw [slotIs, issued]) timeout, slotIs, sent]
      exact congrArg (fun slot => (freeSlot k slot x, sends .fs failed)) (if_pos issued).symm
    · have other : r.state ≠ .issued := by rw [cancelling]; nofun
      have silent : failed = [] := if_neg fun both => other both.1
      rw [fsTakesEnd_of_cancelling (by rw [slotIs, cancelling]) timeout, slotIs, silent]
      exact congrArg (fun slot => (freeSlot k slot x, sends .fs [])) (if_neg other).symm
  have few : failed.length ≤ 1 := by
    simp only [failed]
    split <;> exact Nat.le_add_left _ _
  refine ⟨fun none => ?_, fun w held target => ?_, fun h held target waiting => ?_⟩
  · obtain ⟨n, nq, order, ran⟩ := exec_accessEnd_of_fetchTimeout (D := id) (atHif := []) rfl ends request
      opened waits takes (fun _ => ⟨rfl, rfl, rfl, rfl⟩) (fun _ => rfl) (fun _ _ _ => rfl)
      (fun x same => seeHalt_of_holdsNone (holdsNoneOf_of_hif same none))
      (fun x same => (recheckIsDue_of_hif same).trans undue) ⟨few, Nat.zero_le 1⟩
    refine ⟨n, ran.trans ?_⟩
    rw [List.append_nil] at order
    obtain rfl : nq = offered u.nq failed := order.elim id id
    rw [record]
    exact congrArg Host.Outcome.next (noting_freeSlot ..)
  · intro ended
    have run := exec_accessEnd_of_fetchTimeout (atHif := [ended])
      (D := fun x => reply (.apertureWrite w.offset .busError) (endHold x)) rfl ends request
      opened waits takes (fun _ => ⟨rfl, rfl, rfl, rfl⟩) (fun _ => rfl) (fun _ _ _ => rfl)
      (fun x same => ?_) (fun _ _ => rfl) ⟨few, le_rfl⟩
    · obtain ⟨n, nq, order, ran⟩ := run
      refine ⟨n, nq, order, ran.trans ?_⟩
      rw [record]
      exact congrArg Host.Outcome.next (noting_endHold_freeSlot ..)
    · simp only [ended, ← target]
      exact seeHalt_of_write ((heldWrite_of_hif same).trans held)
  · intro ended
    have run := exec_accessEnd_of_fetchTimeout (atHif := [ended])
      (D := fun x => reply (.apertureRead h.offset .busError) (dropHeldRead x)) rfl ends request
      opened waits takes (fun _ => ⟨rfl, rfl, rfl, rfl⟩) (fun x => ?_) (fun _ _ _ => rfl)
      (fun x same => ?_) (fun _ _ => rfl) ⟨few, le_rfl⟩
    · obtain ⟨n, nq, order, ran⟩ := run
      refine ⟨n, nq, order, ran.trans ?_⟩
      rw [record]
      exact congrArg Host.Outcome.next (noting_dropHeldRead_freeSlot ..)
    · have order := strike_comm [.heldRead] [.fetch k] x.ou
      simp only [freeSlot, depart, markFreed, setSlot, reply, dropHeldRead, endHold, order]
    · simp only [ended, ← target]
      exact seeHalt_of_waiting ((heldRead_of_hif same).trans held) waiting

end Sys2Proof.Machine
end

section
/-! The end of an access beside the Watch Hits offered for it and the halts of its target: each block makes
its responses in its own order, and all come to their ends (R32, R84, R128 to R131, R135). -/

namespace Sys2Proof.Machine

/-- What goes on beside the Watch Hits and the halts of `t`: `Stage halted own hif told x` says which tasks
the owner `o` and the HIF have outstanding, which notices the HIF has offered, and what that has made of
the state, but for the Notice Queue. -/
structure WatchedEnd (o : Block) (t : Target) (halts : List FaultRecord)
    (Stage : Bool → List Task → List Task → List Notice → State → Prop) : Prop where
  owner : o ≠ .wu ∧ o ≠ .tt ∧ o ≠ .hif
  opened : ∀ {own hif told x}, Stage false own hif told x → x.admission t = .opened
  isHalted : ∀ {own hif told x}, Stage true own hif told x → ∃ f, x.admission t = .halted f
  halts : ∀ {fault later own hif told x}, halts = fault :: later → Stage false own hif told x →
    Stage true own (hif ++ [.seeHalt t]) told (x.setAdmission t (.halted fault))
  takesOwn : ∀ {halted task own hif told x}, Stage halted (task :: own) hif told x →
    ∃ y, (∀ q n, runTask task (noting q n x) = (noting q n y, [])) ∧ Stage halted own hif told y
  takesHif : ∀ {halted own task hif told x}, Stage halted own (task :: hif) told x →
    (∃ N, task = .offer N ∧ Stage halted own hif (told ++ [N]) x)
      ∨ ∃ y notices, (∀ q n, runTask task (noting q n x) = (noting q n y, sends .hif notices))
        ∧ Stage halted own (hif ++ notices.map .offer) told y
  takesDue : ∀ {halted own hif told x d}, Stage halted own hif told x → d ∈ x.departureDues →
    d.block = .hif ∧ (hif = [] → ∃ y notices,
      (∀ q n, runDue d (noting q n x) = (noting q n y, sends .hif notices))
        ∧ Stage halted own (notices.map .offer) told y)

section
variable {o : Block} {t : Target} {halts : List FaultRecord} {hits : List Notice} {base : NoticeQueue}
  {Stage : Bool → List Task → List Task → List Notice → State → Prop}

/-- The tasks outstanding in each block. -/
def watchTasks (o : Block) (t : Target) (left : List Notice) (rest : List FaultRecord)
    (own hif : List Task) (c : Block) : List Task :=
  if c = .wu then left.map .offer
  else if c = .tt then rest.map (.halt t)
  else if c = .hif then hif
  else if c = o then own
  else []

/-- How far the responses have come: the Watch Hits `done` are offered, and `offered` lists all notices
offered, in their order. -/
structure WatchedAt (o : Block) (t : Target) (halts : List FaultRecord) (hits : List Notice)
    (base : NoticeQueue) (Stage : Bool → List Task → List Task → List Notice → State → Prop)
    (done left : List Notice) (halted : Bool) (rest : List FaultRecord) (own hif : List Task)
    (told offered : List Notice) (y : State) (n : Nat) (q : Block → List Task) (x : State) : Prop where
  tasks : ∀ c, q c = watchTasks o t left rest own hif c
  same : x = noting (offers base offered) n y
  stage : Stage halted own hif told y
  hits : hits = done ++ left
  before : halted = false → rest = halts
  after : halted = true → halts ≠ []
  perm : offered.Perm (done ++ told)
  order : done.Sublist offered

/-- The responses have come so far, by some order. -/
def Watched (o : Block) (t : Target) (halts : List FaultRecord) (hits : List Notice)
    (base : NoticeQueue) (Stage : Bool → List Task → List Task → List Notice → State → Prop)
    (q : Block → List Task) (x : State) : Prop :=
  ∃ done left halted rest own hif told offered y n,
    WatchedAt o t halts hits base Stage done left halted rest own hif told offered y n q x

/-- The WU offers its next Watch Hit. -/
theorem Watched.wu {q q' : Block → List Task} {x : State} {task : Task} (head : q .wu = task :: q' .wu)
    (others : ∀ c, c ≠ .wu → q c = q' c) (h : Watched o t halts hits base Stage q x) :
    Watched o t halts hits base Stage (fun c => q' c ++ queueOf (runTask task x).2 c)
      (runTask task x).1 := by
  obtain ⟨done, left, halted, rest, own, hif, told, offered, y, n, at_⟩ := h
  have first := (at_.tasks .wu).symm.trans head
  rw [watchTasks, if_pos rfl] at first
  cases left with
  | nil => cases first
  | cons N left =>
    obtain ⟨rfl, remaining⟩ := List.cons.inj first
    refine ⟨done ++ [N], left, halted, rest, own, hif, told, offered ++ [N], y, n,
      { tasks := tasks_after others at_.tasks ?_ fun c hc => ?_, same := ?_, stage := at_.stage
        hits := at_.hits.trans (List.append_assoc done [N] left).symm, before := at_.before
        after := at_.after, perm := ?_, order := at_.order.append (List.Sublist.refl _) }⟩
    · rw [watchTasks, if_pos rfl, ← remaining]
      exact List.append_nil _
    · refine (List.append_nil _).trans ?_
      simp only [watchTasks, if_neg hc]
    · rw [offers_append_singleton, at_.same]
      rfl
    · refine (at_.perm.append_right [N]).trans ?_
      rw [List.append_assoc, List.append_assoc]
      exact List.perm_append_comm.append_left done

/-- The TT takes its next halt: the first is recorded, and a later one finds the target Halted. -/
theorem Watched.tt (watched : WatchedEnd o t halts Stage) {q q' : Block → List Task} {x : State}
    {task : Task} (head : q .tt = task :: q' .tt) (others : ∀ c, c ≠ .tt → q c = q' c)
    (h : Watched o t halts hits base Stage q x) :
    Watched o t halts hits base Stage (fun c => q' c ++ queueOf (runTask task x).2 c)
      (runTask task x).1 := by
  obtain ⟨done, left, halted, rest, own, hif, told, offered, y, n, at_⟩ := h
  obtain ⟨notWu, notTt, notHif⟩ := watched.owner
  have first := (at_.tasks .tt).symm.trans head
  rw [watchTasks, if_neg (by decide), if_pos rfl] at first
  cases rest with
  | nil => cases first
  | cons fault rest =>
    obtain ⟨rfl, remaining⟩ := List.cons.inj first
    cases halted with
    | true =>
      obtain ⟨f, isHalted⟩ := watched.isHalted at_.stage
      have isHalted' : x.admission t = .halted f := by rw [at_.same]; exact isHalted
      have run : runTask (.halt t fault) x = (x, []) := by simp only [runTask, takeHalt, isHalted']
      rw [run]
      refine ⟨done, left, true, rest, own, hif, told, offered, y, n,
        { at_ with tasks := tasks_after others at_.tasks ?_ fun c hc => ?_, before := nofun }⟩
      · rw [watchTasks, if_neg (by decide), if_pos rfl, ← remaining]
        exact List.append_nil _
      · refine (List.append_nil _).trans ?_
        simp only [watchTasks, if_neg hc]
    | false =>
      have opened : y.admission t = .opened := watched.opened at_.stage
      have isOpened : x.admission t = .opened := by rw [at_.same]; exact opened
      have run : runTask (.halt t fault) x
          = (x.setAdmission t (.halted fault), [⟨.hif, .seeHalt t⟩]) := by
        simp only [runTask, takeHalt, isOpened]
      have halts := (at_.before rfl).symm
      rw [run]
      refine ⟨done, left, true, rest, own, hif ++ [.seeHalt t], told, offered,
        y.setAdmission t (.halted fault), n,
        { tasks := tasks_after others at_.tasks ?_ fun c hc => ?_, same := by rw [at_.same]; rfl
          stage := watched.halts halts at_.stage, hits := at_.hits, before := nofun
          after := fun _ => by rw [halts]; nofun, perm := at_.perm, order := at_.order }⟩
      · rw [watchTasks, if_neg (by decide), if_pos rfl, ← remaining]
        exact List.append_nil _
      · rw [queueOf_cons, queueOf_nil]
        by_cases atHif : c = .hif
        · subst atHif
          rfl
        · simp only [watchTasks, if_neg hc, if_neg atHif, List.append_nil]

/-- The owner takes its next response. -/
theorem Watched.own (watched : WatchedEnd o t halts Stage) {q q' : Block → List Task} {x : State}
    {task : Task} (head : q o = task :: q' o) (others : ∀ c, c ≠ o → q c = q' c)
    (h : Watched o t halts hits base Stage q x) :
    Watched o t halts hits base Stage (fun c => q' c ++ queueOf (runTask task x).2 c)
      (runTask task x).1 := by
  obtain ⟨done, left, halted, rest, own, hif, told, offered, y, n, at_⟩ := h
  obtain ⟨notWu, notTt, notHif⟩ := watched.owner
  have first := (at_.tasks o).symm.trans head
  rw [watchTasks, if_neg notWu, if_neg notTt, if_neg notHif, if_pos rfl] at first
  subst first
  obtain ⟨z, run, stage⟩ := watched.takesOwn at_.stage
  rw [at_.same, run]
  refine ⟨done, left, halted, rest, q' o, hif, told, offered, z, n,
    { at_ with tasks := tasks_after others at_.tasks ?_ fun c hc => ?_, same := rfl, stage := stage }⟩
  · rw [watchTasks, if_neg notWu, if_neg notTt, if_neg notHif, if_pos rfl]
    exact List.append_nil _
  · refine (List.append_nil _).trans ?_
    simp only [watchTasks, if_neg hc]

/-- Tasks the HIF is given leave every other block as it was. -/
theorem watchTasks_hif (own hif hif' : List Task) (left : List Notice) (rest : List FaultRecord)
    {c : Block} (hc : c ≠ .hif) :
    watchTasks o t left rest own hif c = watchTasks o t left rest own hif' c := by
  simp only [watchTasks, if_neg hc]

/-- The HIF takes its next response. -/
theorem Watched.hif (watched : WatchedEnd o t halts Stage) {q q' : Block → List Task} {x : State}
    {task : Task} (head : q .hif = task :: q' .hif) (others : ∀ c, c ≠ .hif → q c = q' c)
    (h : Watched o t halts hits base Stage q x) :
    Watched o t halts hits base Stage (fun c => q' c ++ queueOf (runTask task x).2 c)
      (runTask task x).1 := by
  obtain ⟨done, left, halted, rest, own, hif, told, offered, y, n, at_⟩ := h
  have first := (at_.tasks .hif).symm.trans head
  rw [watchTasks, if_neg (by decide), if_neg (by decide), if_pos rfl] at first
  subst first
  obtain ⟨N, rfl, stage⟩ | ⟨z, notices, run, stage⟩ := watched.takesHif at_.stage
  · refine ⟨done, left, halted, rest, own, q' .hif, told ++ [N], offered ++ [N], y, n,
      { at_ with
        tasks := tasks_after others at_.tasks (List.append_nil _) fun c hc =>
          (List.append_nil _).trans (watchTasks_hif _ _ _ _ _ hc)
        same := ?_, stage := stage, perm := ?_
        order := at_.order.trans (List.sublist_append_left _ _) }⟩
    · rw [offers_append_singleton, at_.same]
      rfl
    · rw [← List.append_assoc]
      exact at_.perm.append_right [N]
  · rw [at_.same, run]
    refine ⟨done, left, halted, rest, own, q' .hif ++ notices.map .offer, told, offered, z, n,
      { at_ with
        tasks := tasks_after others at_.tasks (by rw [queueOf_sends, if_pos rfl]; rfl) fun c hc => ?_
        same := rfl, stage := stage }⟩
    rw [queueOf_sends, if_neg hc, List.append_nil]
    exact watchTasks_hif _ _ _ _ _ hc

/-- The HIF takes a consequence that is due to it. -/
theorem Watched.due (watched : WatchedEnd o t halts Stage) {q : Block → List Task} {x : State} {d : Due}
    (due : d ∈ x.departureDues) (free : q d.block = []) (h : Watched o t halts hits base Stage q x) :
    Watched o t halts hits base Stage (fun c => q c ++ queueOf (runDue d x).2 c) (runDue d x).1 := by
  obtain ⟨done, left, halted, rest, own, hif, told, offered, y, n, at_⟩ := h
  rw [at_.same, departureDues_noting] at due
  obtain ⟨block, takes⟩ := watched.takesDue at_.stage due
  rw [block, at_.tasks .hif, watchTasks, if_neg (by decide), if_neg (by decide), if_pos rfl] at free
  subst free
  obtain ⟨z, notices, run, stage⟩ := takes rfl
  rw [at_.same, run]
  refine ⟨done, left, halted, rest, own, notices.map .offer, told, offered, z, n,
    { at_ with tasks := fun c => ?_, same := rfl, stage := stage }⟩
  rw [at_.tasks c, queueOf_sends]
  by_cases hc : c = .hif
  · subst hc
    rw [if_pos rfl]
    rfl
  · rw [if_neg hc, List.append_nil]
    exact watchTasks_hif _ _ _ _ _ hc

/-- All responses come to their ends: every Watch Hit is offered in comparator order, and the target is
Halted exactly where a halt of it was called for. -/
theorem WatchedEnd.takeJobs (watched : WatchedEnd o t halts Stage) {work : List Job} {s : State}
    {own hif : List Task} (tasks : ∀ c, queueOf work c = watchTasks o t hits halts own hif c)
    (start : Stage false own hif [] s) :
    ∃ (n : Nat) (offered told : List Notice) (halted : Bool) (y : State),
      Machine.takeJobs work s = noting (offers s.nq offered) n y ∧ Stage halted [] [] told y
      ∧ (halted = true ↔ halts ≠ []) ∧ offered.Perm (hits ++ told) ∧ hits.Sublist offered := by
  obtain ⟨notWu, notTt, notHif⟩ := watched.owner
  have last := takeJobs_keeps (P := Watched o t halts hits s.nq Stage) (work := work) (s := s)
    ?_ ?_ ?_ ?_
  · obtain ⟨done, left, halted, rest, own', hif', told, offered, y, n, at_⟩ := last
    have none (c : Block) : watchTasks o t left rest own' hif' c = [] := (at_.tasks c).symm
    have noneWu := none .wu
    have noneTt := none .tt
    have noneHif := none .hif
    have noneOwn := none o
    rw [watchTasks, if_pos rfl] at noneWu
    rw [watchTasks, if_neg (by decide), if_pos rfl] at noneTt
    rw [watchTasks, if_neg (by decide), if_neg (by decide), if_pos rfl] at noneHif
    rw [watchTasks, if_neg notWu, if_neg notTt, if_neg notHif, if_pos rfl] at noneOwn
    obtain rfl := List.map_eq_nil_iff.1 noneWu
    obtain rfl := List.map_eq_nil_iff.1 noneTt
    subst noneHif noneOwn
    have all : hits = done := at_.hits.trans (List.append_nil done)
    refine ⟨n, offered, told, halted, y, at_.same, at_.stage, ⟨at_.after, fun some => ?_⟩,
      all ▸ at_.perm, all ▸ at_.order⟩
    cases halted with
    | true => rfl
    | false => exact absurd (at_.before rfl).symm some
  · rintro q x m ⟨done, left, halted, rest, own, hif, told, offered, y, n, at_⟩
    exact ⟨done, left, halted, rest, own, hif, told, offered, y, m,
      { at_ with same := by rw [at_.same]; rfl }⟩
  · intro q q' x b task head others h
    by_cases atWu : b = .wu
    · exact Watched.wu (atWu ▸ head) (atWu ▸ others) h
    by_cases atTt : b = .tt
    · exact Watched.tt watched (atTt ▸ head) (atTt ▸ others) h
    by_cases atHif : b = .hif
    · exact Watched.hif watched (atHif ▸ head) (atHif ▸ others) h
    by_cases atO : b = o
    · exact Watched.own watched (atO ▸ head) (atO ▸ others) h
    obtain ⟨_, _, _, _, _, _, _, _, _, _, at_⟩ := h
    have none := (at_.tasks b).symm.trans head
    rw [watchTasks, if_neg atWu, if_neg atTt, if_neg atHif, if_neg atO] at none
    cases none
  · exact fun due free h => Watched.due watched due free h
  · exact ⟨[], hits, false, halts, own, hif, [], [], s, s.choices,
      { tasks := tasks, same := rfl, stage := start, hits := rfl, before := fun _ => rfl, after := nofun
        perm := List.Perm.nil, order := List.Sublist.refl _ }⟩

end

end Sys2Proof.Machine
end

section
/-! What firing comparators call for at an access's end (R128, R129, R131), and the ends of the held read's
access (R79, R80, R82 to R84, R130). -/

namespace Sys2Proof.Machine

/-! ## The Watch Hits and halts of an end (R128, R129, R131) -/

/-- The fault record of a halt by comparator `n` (R129). -/
def Access.watchFault (a : Access) (n : ComparatorNo) : FaultRecord :=
  .watch a.pn? a.address a.lanes a.data n

/-- The fault records of the halts an access's end calls for, in comparator order (R131). -/
def haltsOn (u : State) (a : Access) : List FaultRecord :=
  (allSlots.filter fun n => u.wu[n].fires a && decide (u.wu[n].action = .halt)).map a.watchFault

theorem haltsOn_of_some {u : State} {a : Access} {n : ComparatorNo} (first : haltingOn u a = some n) :
    ∃ later, haltsOn u a = a.watchFault n :: later := by
  rw [haltingOn, ← List.head?_filter, List.head?_eq_some_iff] at first
  obtain ⟨ns, found⟩ := first
  exact ⟨ns.map a.watchFault, congrArg (List.map a.watchFault) found⟩

theorem haltsOn_of_none {u : State} {a : Access} (none : haltingOn u a = none) : haltsOn u a = [] := by
  rw [haltingOn, ← List.head?_filter, List.head?_eq_none_iff] at none
  exact congrArg (List.map a.watchFault) none

theorem queueOf_comparator (a : Access) (n : ComparatorNo) (c : Comparator) (b : Block) :
    queueOf (Machine.watchJobs a n c) b =
      if b = .wu then (if c.fires a then [.offer (.watchHit n a.target a.address a.lanes a.data
        a.accessClass a.pn? (decide (c.action = .halt)))] else [])
      else if b = .tt then (if c.fires a && decide (c.action = .halt) then
        [.halt a.target (a.watchFault n)] else [])
      else [] := by
  unfold Machine.watchJobs
  by_cases fires : c.fires a = true
  · by_cases halts : c.action = .halt
    · rw [if_pos fires, if_pos halts, queueOf_cons, queueOf_cons, queueOf_nil]
      by_cases wu : b = .wu
      · subst wu
        simp [fires, halts]
      · by_cases tt : b = .tt
        · subst tt
          simp [fires, halts, Access.watchFault]
        · simp [wu, tt]
    · rw [if_pos fires, if_neg halts, queueOf_cons, queueOf_nil]
      by_cases wu : b = .wu
      · simp [wu, fires, beq_eq_false_iff_ne.2 halts, halts]
      · simp [wu, halts]
  · simp [fires]

/-- The queues of tasks the comparators call for. -/
theorem queueOf_watchJobs (u : State) (a : Access) (b : Block) : queueOf (u.watchJobs a) b =
    if b = .wu then (hitsOn u a).map .offer
    else if b = .tt then (haltsOn u a).map (.halt a.target) else [] := by
  have each (ns : List ComparatorNo) :
      queueOf (ns.flatMap fun n => Machine.watchJobs a n u.wu[n]) b =
        if b = .wu then ((ns.filter fun n => u.wu[n].fires a).map fun n => .watchHit n a.target
          a.address a.lanes a.data a.accessClass a.pn? (decide (u.wu[n].action = .halt))).map .offer
        else if b = .tt then ((ns.filter fun n => u.wu[n].fires a &&
          decide (u.wu[n].action = .halt)).map a.watchFault).map (.halt a.target) else [] := by
    induction ns with
    | nil => simp
    | cons n ns ih =>
      rw [List.flatMap_cons, queueOf_append, queueOf_comparator, ih]
      by_cases wu : b = .wu
      · simp only [if_pos wu, List.filter_cons]
        split <;> rfl
      · by_cases tt : b = .tt
        · simp only [if_neg wu, if_pos tt, List.filter_cons]
          split <;> rfl
        · simp only [if_neg wu, if_neg tt, List.append_nil]
  refine (each allSlots).trans ?_
  rw [hitsOn, haltsOn]
  cases request : a.request <;> simp only [Access.accessClass, Access.pn?, request] <;> rfl

/-! ## What is left of a held cycle that has ended -/

/-- The HIF has the notice `n` to offer, or has offered it, and finds nothing more to end. -/
def Residue (t : Target) (n : Notice) (hif : List Task) (told : List Notice) : Prop :=
  ∃ k m, (hif = List.replicate k (.seeHalt t) ++ .offer n :: List.replicate m (.seeHalt t) ∧ told = [])
    ∨ (hif = List.replicate k (.seeHalt t) ∧ told = [n])

section
variable {t : Target} {n : Notice} {hif : List Task} {told : List Notice}

theorem residue_offer : Residue t n [.offer n] [] := ⟨0, 0, .inl ⟨rfl, rfl⟩⟩

theorem residue_seeHalt_offer : Residue t n [.seeHalt t, .offer n] [] := ⟨1, 0, .inl ⟨rfl, rfl⟩⟩

theorem Residue.seeHalt (h : Residue t n hif told) : Residue t n (hif ++ [.seeHalt t]) told := by
  obtain ⟨k, m, ⟨rfl, rfl⟩ | ⟨rfl, rfl⟩⟩ := h
  · refine ⟨k, m + 1, .inl ⟨?_, rfl⟩⟩
    rw [List.replicate_succ', List.append_assoc, List.cons_append]
  · exact ⟨k + 1, 0, .inr ⟨List.replicate_succ'.symm, rfl⟩⟩

theorem Residue.nil (h : Residue t n [] told) : told = [n] := by
  obtain ⟨k, m, ⟨tasks, -⟩ | ⟨-, told⟩⟩ := h
  · exact absurd tasks.symm (by simp)
  · exact told

/-- The next task of what is left: a halt seen in vain, or the notice. -/
theorem Residue.cons {task : Task} (h : Residue t n (task :: hif) told) :
    (task = .seeHalt t ∧ Residue t n hif told) ∨ (task = .offer n ∧ Residue t n hif (told ++ [n])) := by
  obtain ⟨k, m, ⟨tasks, rfl⟩ | ⟨tasks, rfl⟩⟩ := h
  · cases k with
    | zero =>
      obtain ⟨rfl, rfl⟩ := List.cons.inj tasks
      exact .inr ⟨rfl, m, 0, .inr ⟨rfl, rfl⟩⟩
    | succ k =>
      obtain ⟨rfl, rfl⟩ := List.cons.inj tasks
      exact .inl ⟨rfl, k, m, .inl ⟨rfl, rfl⟩⟩
  · cases k with
    | zero => cases tasks
    | succ k =>
      obtain ⟨rfl, rfl⟩ := List.cons.inj tasks
      exact .inl ⟨rfl, k, 0, .inr ⟨rfl, rfl⟩⟩

end

/-- The HIF that holds nothing sees a halt in vain. -/
theorem seeHalt_of_empty {s : State} {t : Target} (empty : s.hif.held = none) :
    seeHalt t s = (s, []) := by
  simp only [seeHalt, empty]

/-! ## The held read's access ends Timeout (R83) -/

theorem timeOutHeldRead_held (r : HeldRead) (s : State) : (timeOutHeldRead r s).hif.held = none := by
  unfold timeOutHeldRead
  split <;> rfl

theorem timeOutHeldRead_noting (r : HeldRead) (q : NoticeQueue) (n : Nat) (s : State) :
    timeOutHeldRead r (noting q n s) = noting q n (timeOutHeldRead r s) := by
  unfold timeOutHeldRead
  split <;> rfl

theorem timeOutHeldRead_setAdmission (r : HeldRead) (t : Target) (x : Admission) (s : State) :
    timeOutHeldRead r (s.setAdmission t x) = (timeOutHeldRead r s).setAdmission t x := by
  unfold timeOutHeldRead
  split <;> rfl

theorem timeOutHeldRead_frame (r : HeldRead) (s : State) : (timeOutHeldRead r s).wq = s.wq
    ∧ (timeOutHeldRead r s).bc = s.bc ∧ (timeOutHeldRead r s).au = s.au
    ∧ (timeOutHeldRead r s).targets = s.targets := by
  unfold timeOutHeldRead
  split <;> exact ⟨rfl, rfl, rfl, rfl⟩

/-- The state with the access's target Halted, or not yet. -/
def haltedAs (t : Target) (fault : FaultRecord) (s : State) (halted : Bool) : State :=
  if halted then s.setAdmission t (.halted fault) else s

theorem haltedAs_frame (t : Target) (fault : FaultRecord) (s : State) (halted : Bool) :
    (haltedAs t fault s halted).wq = s.wq ∧ (haltedAs t fault s halted).bc = s.bc
    ∧ (haltedAs t fault s halted).au = s.au ∧ (haltedAs t fault s halted).hif = s.hif
    ∧ (haltedAs t fault s halted).ou = s.ou := by
  cases halted <;> exact ⟨rfl, rfl, rfl, rfl, rfl⟩

theorem haltedAs_isHalted (t : Target) (fault : FaultRecord) (s : State) :
    (haltedAs t fault s true).admission t = .halted fault :=
  (admission_setAdmission s t t _).trans (if_pos rfl)

/-- The stages of the HIF at the Timeout of the held read's access: the end is to be taken, or the read is
gone and its notice is offered. -/
def TimeoutStage (a : Access) (r : HeldRead) (s : State) (halted : Bool) (own hif : List Task)
    (told : List Notice) (x : State) : Prop :=
  own = [] ∧
    ((hif = .takeEnd a :: (if halted then [.seeHalt a.target] else []) ∧ told = []
        ∧ x = haltedAs a.target a.fault s halted)
      ∨ (Residue a.target (.readFault r.target r.offset r.lanes .timeout) hif told
        ∧ x = timeOutHeldRead r (haltedAs a.target a.fault s halted)))

theorem readTimeout_watchedEnd {s : State} {a : Access} {r : HeldRead} (request : a.request = .heldRead)
    (timeout : a.result = some .timeout) (held : s.heldRead? = some r)
    (opened : s.admission a.target = .opened) (settled : s.departureDues = [])
    (waits : nothingWaitsForDrain s) :
    WatchedEnd .wq a.target [a.fault] (TimeoutStage a r s) where
  owner := by decide
  opened := by
    rintro own hif told x ⟨-, ⟨-, -, rfl⟩ | ⟨-, rfl⟩⟩
    · exact opened
    · obtain ⟨-, -, -, targets⟩ := timeOutHeldRead_frame r (haltedAs a.target a.fault s false)
      rw [State.admission, targets]
      exact opened
  isHalted := by
    rintro own hif told x ⟨-, ⟨-, -, rfl⟩ | ⟨-, rfl⟩⟩
    · exact ⟨_, haltedAs_isHalted ..⟩
    · obtain ⟨-, -, -, targets⟩ := timeOutHeldRead_frame r (haltedAs a.target a.fault s true)
      refine ⟨a.fault, ?_⟩
      rw [State.admission, targets]
      exact haltedAs_isHalted ..
  halts := by
    rintro fault later own hif told x first ⟨none, ⟨rfl, none', rfl⟩ | ⟨left, rfl⟩⟩
    · obtain ⟨rfl, -⟩ := List.cons.inj first
      exact ⟨none, .inl ⟨rfl, none', rfl⟩⟩
    · obtain ⟨rfl, -⟩ := List.cons.inj first
      exact ⟨none, .inr ⟨left.seeHalt, (timeOutHeldRead_setAdmission ..).symm⟩⟩
  takesOwn := by rintro _ _ _ _ _ _ ⟨none, -⟩; cases none
  takesHif := by
    rintro halted own task hif told x ⟨none, ⟨tasks, rfl, rfl⟩ | ⟨left, rfl⟩⟩
    · obtain ⟨rfl, rfl⟩ := List.cons.inj tasks
      obtain ⟨-, -, -, sameHif, -⟩ := haltedAs_frame a.target a.fault s halted
      refine .inr ⟨_, [.readFault r.target r.offset r.lanes .timeout], fun q n => ?_, none,
        .inr ⟨?_, rfl⟩⟩
      · have held' : (noting q n (haltedAs a.target a.fault s halted)).heldRead? = some r :=
          (heldRead_of_hif (u := s) (x := noting q n _) sameHif).trans held
        rw [runTask, takeEnd, request]
        refine (hifTakesEnd_of_timeout held' timeout).trans ?_
        rw [timeOutHeldRead_noting]
        rfl
      · cases halted
        · exact residue_offer
        · exact residue_seeHalt_offer
    · obtain ⟨rfl, rest⟩ | ⟨rfl, rest⟩ := left.cons
      · refine .inr ⟨_, [], fun q n => seeHalt_of_empty (timeOutHeldRead_held r _), none, .inr ⟨?_, rfl⟩⟩
        rw [List.map_nil, List.append_nil]
        exact rest
      · exact .inl ⟨_, rfl, none, .inr ⟨rest, rfl⟩⟩
  takesDue := by
    rintro halted own hif told x d ⟨-, at_⟩ due
    obtain ⟨wq, bc, au, sameHif, -⟩ := haltedAs_frame a.target a.fault s halted
    obtain ⟨-, -, undue, -⟩ := departureDues_eq_nil_iff.1 settled
    have noDues : x.departureDues = [] := by
      obtain ⟨-, -, rfl⟩ | ⟨-, rfl⟩ := at_
      · refine departureDues_of_nothingWaits settled ?_ au ((recheckIsDue_of_hif sameHif).trans undue)
        rw [nothingWaitsForDrain, wq, bc]
        exact waits
      · obtain ⟨wq', bc', au', -⟩ := timeOutHeldRead_frame r (haltedAs a.target a.fault s halted)
        refine departureDues_of_nothingWaits settled ?_ (au'.trans au)
          (recheckIsDue_eq_false_iff.2 fun _ => ?_)
        · rw [nothingWaitsForDrain, wq', bc', wq, bc]
          exact waits
        · rw [State.heldWrite?, timeOutHeldRead_held]
    rw [noDues] at due
    cases due

/-- Settles O45: the HIF takes the end before it sees the halt, which then finds nothing to end. -/
theorem heldReadAccessTimeout : Obligations.HeldReadAccessTimeout := by
  intro s a r u ends request held opened waits
  have timeout : a.result = some .timeout := ends.2.2.1
  have settled : (freeBus a u).departureDues = [] :=
    ended_of_timeout (s := u) timeout ▸ departureDues_ended (departureDues_arrive s)
      (.inr (.inl (by rw [held]; nofun)))
  have record : a.fault = .readTimeout a.address a.lanes := by rw [Access.fault, request]
  obtain ⟨n, offered, told, halted, y, ran, ⟨-, ⟨none, -⟩ | ⟨left, rfl⟩⟩, last, perm, -⟩ :=
    (readTimeout_watchedEnd (s := freeBus a u) request timeout held opened
      settled waits).takeJobs (hits := [])
      (work := [⟨.hif, .takeEnd a⟩, ⟨.tt, .halt a.target a.fault⟩]) (own := []) (hif := [.takeEnd a])
      (fun c => by cases c <;> rfl) ⟨rfl, .inl ⟨rfl, rfl, rfl⟩⟩
  · cases none
  obtain rfl : halted = true := last.2 nofun
  obtain rfl := left.nil
  obtain rfl := List.perm_singleton.1 perm
  refine ⟨n, ?_⟩
  rw [exec_accessEnd_of_timeout rfl ends, request]
  refine congrArg Host.Outcome.next (ran.trans ?_)
  rw [record, timeOutHeldRead]
  split <;> rfl

end Sys2Proof.Machine
end

section
/-! The held read's access ends Done: with no comparator firing, and with its low half halted by one
(R69, R79, R80, R82, R84, R130). -/

namespace Sys2Proof.Machine

/-! ## One comparator that fires -/

theorem filter_eq_singleton {p : ComparatorNo → Bool} {n : ComparatorNo} (here : p n = true)
    (others : ∀ m, m ≠ n → p m = false) : allSlots.filter p = [n] := by
  have only (n : ComparatorNo) : allSlots.filter (fun m => decide (m = n)) = [n] := by
    revert n
    decide
  refine (List.filter_congr fun m _ => ?_).trans (only n)
  by_cases same : m = n
  · rw [same, here, decide_eq_true rfl]
  · rw [others m same, decide_eq_false same]

section
variable {u : State} {a : Access} {n : ComparatorNo}

theorem hitsOn_of_single (fires : u.wu[n].fires a = true)
    (others : ∀ m : ComparatorNo, m ≠ n → u.wu[m].fires a = false) : hitsOn u a =
      [.watchHit n a.target a.address a.lanes a.data
        (match a.request with | .entry _ => .write | .heldRead => .read | .fetch _ => .fetch)
        (match a.request with | .entry pn => some pn | .heldRead | .fetch _ => none)
        (decide (u.wu[n].action = .halt))] :=
  congrArg (List.map _) (filter_eq_singleton (p := fun n => u.wu[n].fires a) fires others)

theorem haltsOn_of_single (fires : u.wu[n].fires a = true) (action : u.wu[n].action = .halt)
    (others : ∀ m : ComparatorNo, m ≠ n → u.wu[m].fires a = false) : haltsOn u a = [a.watchFault n] :=
  congrArg (List.map a.watchFault) (filter_eq_singleton
    (p := fun n => u.wu[n].fires a && decide (u.wu[n].action = .halt))
    (by rw [fires, action]; rfl) fun m other => by rw [others m other]; rfl)

end

/-! ## The responses to a Done access -/

theorem exec_accessEnd_of_watch {s u : State} {a : Access} (met : arrive s = u)
    (ends : endsWith u a .done) : exec .accessEnd s
      = .next (takeJobs (⟨a.request.owner, .takeEnd a⟩ :: u.watchJobs a) (ended a u)) := by
  obtain ⟨access, hold, done, live⟩ := ends
  rw [exec_accessEnd_of met access hold, endAccess_of_live live, endJobs_of_done done]
  rfl

/-- The queues of tasks where the HIF is to take the end. -/
theorem queueOf_watched_hif (u : State) (a : Access) (c : Block) :
    queueOf (⟨.hif, .takeEnd a⟩ :: u.watchJobs a) c
      = watchTasks .wq a.target (hitsOn u a) (haltsOn u a) [] [.takeEnd a] c := by
  rw [queueOf_cons, queueOf_watchJobs]
  cases c <;> rfl

/-- The queues of tasks where another owner is to take the end. -/
theorem queueOf_watched_own (u : State) (a : Access) {o : Block}
    (owner : o ≠ .wu ∧ o ≠ .tt ∧ o ≠ .hif) (c : Block) :
    queueOf (⟨o, .takeEnd a⟩ :: u.watchJobs a) c
      = watchTasks o a.target (hitsOn u a) (haltsOn u a) [.takeEnd a] [] c := by
  obtain ⟨notWu, notTt, notHif⟩ := owner
  rw [queueOf_cons, queueOf_watchJobs, watchTasks]
  by_cases own : c = o
  · subst own
    simp only [if_neg notWu, if_neg notTt, if_neg notHif, if_true]
  · simp only [if_neg own, ite_self]

/-! ## No comparator fires (R79, R80, R82) -/

theorem dropHeldRead_reply_ended {u : State} {a : Access} (done : a.result = some .done)
    (answer : HostReply) : reply answer (dropHeldRead (ended a u)) = { freeBus a u with
      wu := u.wu.map fun c : Comparator => c.after a, ou := (depart [.heldRead] u).ou
      hif := { u.hif with
        held := none, holdTimer := none, recheckDue := false
        replies := u.hif.replies ++ [answer] } } := by
  rw [ended_of_done done]
  rfl

theorem setHeldRead_ended {u : State} {a : Access} (done : a.result = some .done) (r : HeldRead) :
    setHeldRead r (ended a u) = { freeBus a u with
      wu := u.wu.map fun c : Comparator => c.after a, hif := { u.hif with held := some (.read r) } } := by
  rw [ended_of_done done]
  rfl

theorem offer_dropHeldRead_ended {u : State} {a : Access} (done : a.result = some .done) (n : Notice) :
    offer n (dropHeldRead (ended a u)) = { freeBus a u with
      wu := u.wu.map fun c : Comparator => c.after a, ou := (depart [.heldRead] u).ou
      hif := { u.hif with held := none, holdTimer := none, recheckDue := false }
      nq := u.nq.offer n } := by
  rw [ended_of_done done]
  rfl

/-! ## A comparator halts the target of the low half (R84, R130) -/

/-- The stages of the HIF where a comparator halts the target of the held read's low half: the end is to be
taken, or the read waits again, or the read is gone and its notice is offered. -/
def LowHaltedStage (a : Access) (r : HeldRead) (fault : FaultRecord) (s : State) (halted : Bool)
    (own hif : List Task) (told : List Notice) (x : State) : Prop :=
  own = [] ∧
    ((hif = .takeEnd a :: (if halted then [.seeHalt a.target] else []) ∧ told = []
        ∧ x = haltedAs a.target fault s halted)
      ∨ (hif = (if halted then [.seeHalt a.target] else []) ∧ told = []
        ∧ x = setHeldRead (r.lowTaken a) (haltedAs a.target fault s halted))
      ∨ (halted = true ∧ Residue a.target (.readFault r.target r.offset r.lanes .halted) hif told
        ∧ x = reply (.apertureRead r.offset .busError) (dropHeldRead (haltedAs a.target fault s true))))

theorem haltHeldRead_lowTaken_noting (a : Access) (r : HeldRead) (q : NoticeQueue) (n : Nat) (s : State) :
    haltHeldRead (r.lowTaken a) (noting q n s)
      = (noting q n (reply (.apertureRead r.offset .busError) (dropHeldRead s)),
        sends .hif [.readFault r.target r.offset r.lanes .halted]) := rfl

theorem heldWrite_of_read {s : State} {r : HeldRead} (held : s.heldRead? = some r) :
    s.heldWrite? = none := by
  rw [State.heldWrite?, heldRead_eq_some_iff.1 held]

/-- The HIF takes the end of a low half: where the target is Halted the read ends, else it waits again. -/
theorem LowHaltedStage.takesEnd {s : State} {a : Access} {r : HeldRead} {fault : FaultRecord}
    (request : a.request = .heldRead) (done : a.result = some .done) (held : s.heldRead? = some r)
    (cycle : r.cycle = .opened) (low : a.half = .low) (target : r.target = a.target)
    (opened : s.admission a.target = .opened) (halted : Bool) :
    ∃ y notices, (∀ q n, takeEnd a (noting q n (haltedAs a.target fault s halted))
        = (noting q n y, sends .hif notices))
      ∧ LowHaltedStage a r fault s halted [] ((if halted then [.seeHalt a.target] else [])
        ++ notices.map .offer) [] y := by
  obtain ⟨-, -, -, sameHif, -⟩ := haltedAs_frame a.target fault s halted
  have held' (q : NoticeQueue) (n : Nat) :
      (noting q n (haltedAs a.target fault s halted)).heldRead? = some r :=
    (heldRead_of_hif (u := s) (x := noting q n _) sameHif).trans held
  simp only [takeEnd, request]
  cases halted with
  | false =>
    refine ⟨setHeldRead (r.lowTaken a) (haltedAs a.target fault s false), [],
      fun q n => hifTakesEnd_of_low (held' q n) done cycle low ?_, rfl, .inr (.inl ⟨rfl, rfl, rfl⟩)⟩
    rw [target]
    exact congrArg Admission.isHalted opened
  | true =>
    refine ⟨_, _, fun q n => (hifTakesEnd_of_low_halted (held' q n) done cycle low ?_).trans
      (haltHeldRead_lowTaken_noting a r q n _), rfl, .inr (.inr ⟨rfl, residue_seeHalt_offer, rfl⟩)⟩
    rw [target]
    exact congrArg Admission.isHalted (haltedAs_isHalted a.target fault s)

theorem lowHalted_watchedEnd {s : State} {a : Access} {r : HeldRead} {fault : FaultRecord}
    (request : a.request = .heldRead) (done : a.result = some .done) (held : s.heldRead? = some r)
    (cycle : r.cycle = .opened) (low : a.half = .low) (target : r.target = a.target)
    (opened : s.admission a.target = .opened) (settled : s.departureDues = [])
    (waits : nothingWaitsForDrain s) :
    WatchedEnd .wq a.target [fault] (LowHaltedStage a r fault s) where
  owner := by decide
  opened := by
    rintro own hif told x ⟨-, ⟨-, -, rfl⟩ | ⟨-, -, rfl⟩ | ⟨no, -⟩⟩
    · exact opened
    · exact opened
    · cases no
  isHalted := by
    rintro own hif told x ⟨-, ⟨-, -, rfl⟩ | ⟨-, -, rfl⟩ | ⟨-, -, rfl⟩⟩
    · exact ⟨_, haltedAs_isHalted ..⟩
    · exact ⟨_, haltedAs_isHalted a.target fault s⟩
    · exact ⟨_, haltedAs_isHalted a.target fault s⟩
  halts := by
    rintro _ later own hif told x first ⟨none, ⟨rfl, none', rfl⟩ | ⟨rfl, none', rfl⟩ | ⟨no, -⟩⟩
    · obtain ⟨rfl, -⟩ := List.cons.inj first
      exact ⟨none, .inl ⟨rfl, none', rfl⟩⟩
    · obtain ⟨rfl, -⟩ := List.cons.inj first
      exact ⟨none, .inr (.inl ⟨rfl, none', rfl⟩)⟩
    · cases no
  takesOwn := by rintro _ _ _ _ _ _ ⟨none, -⟩; cases none
  takesHif := by
    rintro halted own task hif told x ⟨rfl, ⟨tasks, rfl, rfl⟩ | ⟨tasks, rfl, rfl⟩ | ⟨rfl, left, rfl⟩⟩
    · obtain ⟨rfl, rfl⟩ := List.cons.inj tasks
      exact .inr (LowHaltedStage.takesEnd request done held cycle low target opened halted)
    · cases halted with
      | false => cases tasks
      | true =>
        obtain ⟨rfl, rfl⟩ := List.cons.inj tasks
        refine .inr ⟨_, [.readFault r.target r.offset r.lanes .halted], fun q n => ?_,
          rfl, .inr (.inr ⟨rfl, residue_offer, rfl⟩)⟩
        have waiting : (noting q n (setHeldRead (r.lowTaken a)
            (haltedAs a.target fault s true))).heldRead? = some (r.lowTaken a) := rfl
        rw [runTask, ← target]
        exact (seeHalt_of_waiting (r := r.lowTaken a) waiting rfl)
    · obtain ⟨rfl, rest⟩ | ⟨rfl, rest⟩ := left.cons
      · refine .inr ⟨reply (.apertureRead r.offset .busError)
          (dropHeldRead (haltedAs a.target fault s true)), [], fun q n => rfl, rfl,
          .inr (.inr ⟨rfl, ?_, rfl⟩)⟩
        rw [List.map_nil, List.append_nil]
        exact rest
      · exact .inl ⟨_, rfl, rfl, .inr (.inr ⟨rfl, rest, rfl⟩)⟩
  takesDue := by
    rintro halted own hif told x d ⟨-, at_⟩ due
    obtain ⟨wq, bc, au, sameHif, -⟩ := haltedAs_frame a.target fault s halted
    have waits' : nothingWaitsForDrain (haltedAs a.target fault s halted) := by
      rw [nothingWaitsForDrain, wq, bc]
      exact waits
    have noDues : x.departureDues = [] := by
      obtain ⟨-, -, rfl⟩ | ⟨-, -, rfl⟩ | ⟨rfl, -, rfl⟩ := at_
      · refine departureDues_of_nothingWaits settled waits' au (recheckIsDue_eq_false_iff.2 fun _ => ?_)
        exact (heldWrite_of_hif sameHif).trans (heldWrite_of_read held)
      · exact departureDues_of_nothingWaits settled waits' au (recheckIsDue_eq_false_iff.2 fun _ => rfl)
      · exact departureDues_of_nothingWaits settled waits' au (recheckIsDue_eq_false_iff.2 fun _ => rfl)
    rw [noDues] at due
    cases due

/-- The read of a low half that a comparator halts is gone, its notice and the Watch Hit in either order. -/
theorem takeJobs_lowHalted {s : State} {a : Access} {r : HeldRead} {fault : FaultRecord} {hit : Notice}
    {work : List Job} (tasks : ∀ c, queueOf work c = watchTasks .wq a.target [hit] [fault] [] [.takeEnd a] c)
    (watched : WatchedEnd .wq a.target [fault] (LowHaltedStage a r fault s)) :
    ∃ n nq, (nq = (s.nq.offer hit).offer (.readFault r.target r.offset r.lanes .halted)
        ∨ nq = (s.nq.offer (.readFault r.target r.offset r.lanes .halted)).offer hit)
      ∧ takeJobs work s = noting nq n (reply (.apertureRead r.offset .busError)
        (dropHeldRead (s.setAdmission a.target (.halted fault)))) := by
  obtain ⟨n, offered, told, halted, y, ran, ⟨-, stage⟩, last, perm, -⟩ :=
    watched.takeJobs tasks ⟨rfl, .inl ⟨rfl, rfl, rfl⟩⟩
  obtain rfl : halted = true := last.2 nofun
  obtain ⟨none, -⟩ | ⟨none, -⟩ | ⟨-, left, rfl⟩ := stage
  · cases none
  · cases none
  obtain rfl := left.nil
  refine ⟨n, _, ?_, ran⟩
  have both : offered = [hit, .readFault r.target r.offset r.lanes .halted]
      ∨ offered = [.readFault r.target r.offset r.lanes .halted, hit] := List.perm_pair.1 perm
  exact both.imp (fun order => by rw [order]; rfl) fun order => by rw [order]; rfl

/-- What the end of a halted low half comes to, field by field. -/
theorem dropHeldRead_halted_ended {u : State} {a : Access} (done : a.result = some .done)
    (answer : HostReply) (fault : FaultRecord) (q : NoticeQueue) (n : Nat) :
    noting q n (reply answer (dropHeldRead ((ended a u).setAdmission a.target (.halted fault))))
      = { freeBus a u with
          wu := u.wu.map fun c : Comparator => c.after a
          nq := q, choices := n, ou := (depart [.heldRead] u).ou
          targets := u.targets.set a.target { u.targets[a.target] with admission := .halted fault }
          hif := { u.hif with
            held := none, holdTimer := none, recheckDue := false
            replies := u.hif.replies ++ [answer] } } := by
  rw [ended_of_done done]
  rfl

/-- Settles O44: with no comparator firing the HIF alone takes the end; a comparator that halts the low
half is a thread beside it. -/
theorem heldReadAccessDone : Obligations.HeldReadAccessDone := by
  intro s a r u after bytes gone ends request held
  have done : a.result = some .done := ends.2.2.1
  have settled : u.departureDues = [] := departureDues_arrive s
  have readHeld : u.heldRead? ≠ none := by rw [held]; nofun
  have live := departureDues_ended (a := a) settled (.inr (.inl readHeld))
  have same : r.bytesWith a = bytes := heldRead_bytesWith_eq r a
  have countedHif : (ended a u).hif = u.hif := by rw [ended_of_done done]; rfl
  have held' : (ended a u).heldRead? = some r := (heldRead_of_hif countedHif).trans held
  have take : takeEnd a (ended a u) = hifTakesEnd a (ended a u) := by rw [takeEnd, request]
  have exec_eq {t : State} {more : List Job} (quiet : noneFires u a)
      (run : hifTakesEnd a (ended a u) = (t, more)) : exec .accessEnd s = .next (takeJobs more t) :=
    exec_accessEnd_of_done rfl ends quiet (.inr (.inl readHeld)) (take.trans run)
  refine ⟨fun quiet cycle last => ?_, fun quiet cycle low notHalted => ?_, fun quiet cycle waits => ?_,
    fun n fires action others cycle low target opened waits => ?_⟩
  · rw [exec_eq quiet (hifTakesEnd_of_last held' done cycle last), takeJobs_nil, same]
    exact congrArg Host.Outcome.next (dropHeldRead_reply_ended done _)
  · have notHalted' : ((ended a u).admission r.target).isHalted = false := by
      have targets : (ended a u).targets = u.targets := by rw [ended_of_done done]; rfl
      rw [State.admission, targets]
      cases admission : u.targets[r.target].admission with
      | halted fault => exact absurd admission (notHalted fault)
      | opened => rfl
      | disabled => rfl
    rw [exec_eq quiet (hifTakesEnd_of_low held' done cycle low notHalted'), takeJobs_nil]
    exact congrArg Host.Outcome.next (setHeldRead_ended done _)
  · have noDues : (dropHeldRead (ended a u)).departureDues = [] := by
      rw [ended_of_done done]
      exact departureDues_of_nothingWaits settled waits rfl rfl
    rw [exec_eq quiet (hifTakesEnd_of_ended held' done cycle), takeJobs_offer noDues,
      HeldRead.lateNotice, same]
    exact congrArg Host.Outcome.next (offer_dropHeldRead_ended done _)
  · intro hit last
    have targets : (ended a u).targets = u.targets := by rw [ended_of_done done]; rfl
    have opened' : (ended a u).admission a.target = .opened := by
      rw [State.admission, targets]
      exact opened
    have waits' : nothingWaitsForDrain (ended a u) := by rw [ended_of_done done]; exact waits
    have hits : hitsOn u a = [hit] := by
      rw [hitsOn_of_single fires others, request, action]
      rfl
    have tasks := queueOf_watched_hif u a
    rw [hits, haltsOn_of_single fires action others] at tasks
    obtain ⟨choices, nq, order, ran⟩ := takeJobs_lowHalted tasks
      (lowHalted_watchedEnd request done held' cycle low target opened' live waits')
    have nqSame : (ended a u).nq = u.nq := by rw [ended_of_done done]; rfl
    rw [nqSame] at order
    refine ⟨choices, nq, order, ?_⟩
    rw [exec_accessEnd_of_watch rfl ends, request]
    refine congrArg Host.Outcome.next (ran.trans ?_)
    rw [dropHeldRead_halted_ended done, Access.watchFault, Access.pn?, request]

end Sys2Proof.Machine
end

section
/-! Firing comparators beside an end that offers no notice and makes nothing due (R32, R93, R128 to R131). -/

namespace Sys2Proof.Machine

/-! ## The first halt is the one recorded (R131) -/

theorem haltsOnlyInTt_watched (a : Access) (u : State) :
    haltsOnlyInTt (queueOf (⟨a.request.owner, .takeEnd a⟩ :: u.watchJobs a)) := by
  intro c notTt task mem
  rw [queueOf_cons, queueOf_watchJobs, if_neg notTt] at mem
  have offered : task ∈ (if c = .wu then (hitsOn u a).map Task.offer else []) → task.isHalt = false := by
    split
    · rintro mem
      obtain ⟨_, -, rfl⟩ := List.mem_map.1 mem
      rfl
    · nofun
  split at mem
  · rcases List.mem_cons.1 mem with rfl | mem
    · rfl
    · exact offered mem
  · exact offered mem

theorem owner_ne_wu (id : RequestId) : id.owner ≠ .wu := by cases id <;> nofun

/-- The targets where a comparator halts one: the first comparator's halt is recorded. -/
theorem targets_of_watch {s u : State} {a : Access} {n : ComparatorNo} (met : arrive s = u)
    (ends : endsWith u a .done) (first : haltingOn u a = some n) (opened : u.admission a.target = .opened) :
    ∃ t, exec .accessEnd s = .next t
      ∧ t.targets = (u.setAdmission a.target (.halted (a.watchFault n))).targets := by
  have done : a.result = some .done := ends.2.2.1
  obtain ⟨later, halts⟩ := haltsOn_of_some first
  have targets : (ended a u).targets = u.targets := by rw [ended_of_done done]; rfl
  have opened' : (ended a u).admission a.target = .opened := by
    rw [State.admission, targets]
    exact opened
  refine ⟨_, exec_accessEnd_of_watch met ends, (takeJobs_targets_of_halt (later := later) (fault := a.watchFault n) ?_
    (haltsOnlyInTt_watched a u) opened').trans ?_⟩
  · rw [queueOf_cons, if_neg (owner_ne_tt a.request).symm, queueOf_watchJobs, if_neg (by decide),
      if_pos rfl, halts]
    rfl
  · rw [setAdmission_targets, targets, setAdmission_targets]

/-! ## An end that its owner knows nothing of -/

section
variable {s : State} {a : Access}

theorem wqTakesEnd_of_none {pn : PN} (found : s.wq.find pn = none) : wqTakesEnd a pn s = (s, []) := by
  simp only [wqTakesEnd, found]

theorem hifTakesEnd_of_none (held : s.heldRead? = none) : hifTakesEnd a s = (s, []) := by
  simp only [hifTakesEnd, held]

theorem fsTakesEnd_of_idle {k : SlotNo} (notIssued : s.fs[k].state ≠ .issued)
    (notCancelling : s.fs[k].state ≠ .cancelling) : fsTakesEnd a k s = (s, []) := by
  cases state : s.fs[k].state with
  | issued => exact absurd state notIssued
  | cancelling => exact absurd state notCancelling
  | _ => simp only [fsTakesEnd, state]

end

/-! ## An end that offers nothing, beside the Watch Hits and halts -/

/-- The state with other comparators, targets, notices and choices, and more host cycles answered before. -/
def recast (wu : Vector Comparator 4) (targets : Vector TargetEntry 8) (before : List HostReply)
    (q : NoticeQueue) (n : Nat) (s : State) : State :=
  { s with
    wu := wu, targets := targets, nq := q, choices := n
    hif := { s.hif with replies := before ++ s.hif.replies } }

theorem queueDeparture_replies (h : HostInterface) (before : List HostReply) :
    HostInterface.queueDeparture { h with replies := before ++ h.replies }
      = { h.queueDeparture with replies := before ++ h.queueDeparture.replies } := by
  obtain ⟨held, _, _, _, _⟩ := h
  rcases held with - | - | - <;> rfl

theorem leaveQueue_recast (pn : PN) (wu : Vector Comparator 4) (targets : Vector TargetEntry 8)
    (before : List HostReply) (q : NoticeQueue) (n : Nat) (s : State) :
    leaveQueue [pn] false (recast wu targets before q n s)
      = recast wu targets before q n (leaveQueue [pn] false s) := by
  have replies := queueDeparture_replies s.hif before
  simp only [leaveQueue, recast, depart, markFreed, List.isEmpty_cons, Bool.false_eq_true, if_false, replies]

/-- An end Done that offers no notice does the same whatever the comparators, the notices, the cycles
answered before, and, but for the low half of a held read, the targets' admission. -/
theorem takeEnd_recast {a : Access} {x : State} (done : a.result = some .done)
    (noLate : a.request = .heldRead → ∀ r, x.heldRead? = some r → r.cycle = .opened)
    (silent : ∀ k, a.request = .fetch k →
      a.half = .low ∨ x.fs[k].notify = false ∨ x.fs[k].state = .cancelling) :
    ∃ y, ∀ wu targets before q n, (a.request = .heldRead → a.half = .low → ∀ r, x.heldRead? = some r →
        (targets[r.target] : TargetEntry).admission.isHalted = false) →
      takeEnd a (recast wu targets before q n x) = (recast wu targets before q n y, []) := by
  unfold takeEnd
  cases request : a.request with
  | entry pn =>
    cases found : x.wq.find pn with
    | none => 
      exact ⟨x, fun wu targets before q n _ => wqTakesEnd_of_none (s := recast wu targets before q n x) found⟩
    | some e =>
      by_cases low : a.half = .low
      · exact ⟨updateEntry pn (fun e => { e with progress := .lowDone }) x,
          fun wu targets before q n _ => wqTakesEnd_of_low (s := recast wu targets before q n x) found done low⟩
      · exact ⟨leaveQueue [pn] false x, fun wu targets before q n _ =>
          (wqTakesEnd_of_last (s := recast wu targets before q n x) found done low).trans
            (congrArg (·, []) (leaveQueue_recast ..))⟩
  | heldRead =>
    cases held : x.heldRead? with
    | none =>
      exact ⟨x, fun wu targets before q n _ => hifTakesEnd_of_none (s := recast wu targets before q n x) held⟩
    | some r =>
      have cycle := noLate request r held
      by_cases low : a.half = .low
      · refine ⟨setHeldRead (r.lowTaken a) x, fun wu targets before q n notHalted => ?_⟩
        exact hifTakesEnd_of_low (s := recast wu targets before q n x) held done cycle low
          (notHalted rfl low r rfl)
      · refine ⟨reply (.apertureRead r.offset (.ready ((r.bytesWith a).setWidth 32))) (dropHeldRead x),
          fun wu targets before q n _ => ?_⟩
        refine (hifTakesEnd_of_last (s := recast wu targets before q n x) held done cycle low).trans ?_
        refine congrArg (·, []) ?_
        simp only [recast, reply, dropHeldRead, depart, markFreed, endHold, List.append_assoc]
  | fetch k =>
    have notified := silent k request
    cases state : x.fs[k].state with
    | cancelling =>
      exact ⟨depart [.fetch k] (setSlot k x.fs[k].freed x), fun wu targets before q n _ =>
        fsTakesEnd_of_cancelling (s := recast wu targets before q n x) state done⟩
    | issued =>
      by_cases low : a.half = .low
      · exact ⟨setSlot k (x.fs[k].lowTaken a) x, fun wu targets before q n _ =>
          fsTakesEnd_of_low (s := recast wu targets before q n x) state done low⟩
      · have notify : x.fs[k].notify = false := by
          obtain yes | no | other := notified
          · exact absurd yes low
          · exact no
          · rw [state] at other
            cases other
        refine ⟨depart [.fetch k] (setSlot k (x.fs[k].completed a) x), fun wu targets before q n _ => ?_⟩
        refine (fsTakesEnd_of_last (s := recast wu targets before q n x) state done low).trans ?_
        have none (m : Notice) : x.fs[k].notices m = [] := by rw [FetchSlot.notices, notify]; rfl
        exact congrArg (fun more => (_, more)) (none _)
    | free | waiting | done | failed =>
      exact ⟨x, fun wu targets before q n _ =>
        fsTakesEnd_of_idle (s := recast wu targets before q n x)
          (fun issued => absurd (state.symm.trans issued) nofun)
          (fun cancelling => absurd (state.symm.trans cancelling) nofun)⟩

/-- The stages of an end that takes `s` to `y` and offers nothing, beside halts of `t` that end no held
cycle: the end is to be taken, or it is taken. -/
def QuietStage (t : Target) (fault : FaultRecord) (halts : List FaultRecord)
    (own₀ hif₀ : List Task) (s y : State) (halted : Bool) (own hif : List Task) (told : List Notice)
    (x : State) : Prop :=
  told = [] ∧ ∃ k, (halted = true ∨ k ≠ 0 → halts ≠ []) ∧
    ((own = own₀ ∧ hif = hif₀ ++ List.replicate k (.seeHalt t) ∧ x = haltedAs t fault s halted)
      ∨ (own = [] ∧ hif = List.replicate k (.seeHalt t) ∧ x = haltedAs t fault y halted))

section
variable {o : Block} {a : Access} {t : Target} {fault : FaultRecord} {halts : List FaultRecord}
  {own hif : List Task} {s y : State}

theorem quiet_watchedEnd (owner : o ≠ .wu ∧ o ≠ .tt ∧ o ≠ .hif)
    (opened : s.admission t = .opened ∧ y.admission t = .opened)
    (first : ∀ f later, halts = f :: later → f = fault)
    (parts : own = [.takeEnd a] ∧ hif = [] ∨ own = [] ∧ hif = [.takeEnd a])
    (takes : ∀ halted q n, (halted = true → halts ≠ []) →
      takeEnd a (noting q n (haltedAs t fault s halted)) = (noting q n (haltedAs t fault y halted), []))
    (none : halts ≠ [] → holdsNoneOf s t ∧ holdsNoneOf y t)
    (quiet : s.departureDues = [] ∧ y.departureDues = []) :
    WatchedEnd o t halts (QuietStage t fault halts own hif s y) where
  owner := owner
  opened := by
    rintro _ _ _ _ ⟨-, k, -, ⟨-, -, rfl⟩ | ⟨-, -, rfl⟩⟩
    · exact opened.1
    · exact opened.2
  isHalted := by
    rintro _ _ _ _ ⟨-, k, -, ⟨-, -, rfl⟩ | ⟨-, -, rfl⟩⟩ <;> exact ⟨fault, haltedAs_isHalted ..⟩
  halts := by
    rintro f later own' hif' told x some ⟨silent, k, -, at_⟩
    obtain rfl := first f later some
    refine ⟨silent, k + 1, fun _ => by rw [some]; nofun, ?_⟩
    obtain ⟨ours, theirs, rfl⟩ | ⟨ours, theirs, rfl⟩ := at_
    · refine .inl ⟨ours, ?_, rfl⟩
      rw [theirs, List.append_assoc, ← List.replicate_succ']
    · refine .inr ⟨ours, ?_, rfl⟩
      rw [theirs, ← List.replicate_succ']
  takesOwn := by
    rintro halted task own' hif' told x ⟨silent, k, called, ⟨ours, theirs, rfl⟩ | ⟨ours, -⟩⟩
    · obtain ⟨rfl, rfl⟩ | ⟨rfl, -⟩ := parts
      · obtain ⟨rfl, rfl⟩ := List.cons.inj ours
        exact ⟨_, fun q n => takes halted q n fun last => called (.inl last), silent, k, called,
          .inr ⟨rfl, theirs, rfl⟩⟩
      · cases ours
    · cases ours
  takesHif := by
    rintro halted own' task hif' told x ⟨rfl, k, called, at_⟩
    have sees {z : State} (here : halts ≠ [] → holdsNoneOf z t) (last : k ≠ 0) (q n) :
        runTask (.seeHalt t) (noting q n (haltedAs t fault z halted))
          = (noting q n (haltedAs t fault z halted), sends .hif []) := by
      obtain ⟨-, -, -, sameHif, -⟩ := haltedAs_frame t fault z halted
      exact seeHalt_of_holdsNone (holdsNoneOf_of_hif (u := z) (x := noting q n _) sameHif
        (here (called (.inr last))))
    have fewer {j : Nat} (h : k = j + 1) : halted = true ∨ j ≠ 0 → halts ≠ [] :=
      fun _ => called (.inr (by omega))
    refine .inr ?_
    obtain ⟨ours, theirs, rfl⟩ | ⟨ours, theirs, rfl⟩ := at_
    · obtain ⟨rfl, rfl⟩ | ⟨rfl, rfl⟩ := parts
      · cases k with
        | zero => cases theirs
        | succ j =>
          obtain ⟨rfl, rfl⟩ := List.cons.inj theirs
          exact ⟨_, [], sees (fun some => (none some).1) (by omega), rfl, j, fewer rfl,
            .inl ⟨ours, List.append_nil _, rfl⟩⟩
      · obtain ⟨rfl, rfl⟩ := List.cons.inj theirs
        exact ⟨_, [], fun q n => takes halted q n fun last => called (.inl last), rfl, k, called,
          .inr ⟨ours, List.append_nil _, rfl⟩⟩
    · cases k with
      | zero => cases theirs
      | succ j =>
        obtain ⟨rfl, rfl⟩ := List.cons.inj theirs
        exact ⟨_, [], sees (fun some => (none some).2) (by omega), rfl, j, fewer rfl,
          .inr ⟨ours, List.append_nil _, rfl⟩⟩
  takesDue := by
    rintro halted own' hif' told x d ⟨-, k, -, at_⟩ due
    have noDues : x.departureDues = [] := by
      obtain ⟨-, -, rfl⟩ | ⟨-, -, rfl⟩ := at_ <;> cases halted
      · exact quiet.1
      · exact quiet.1
      · exact quiet.2
      · exact quiet.2
    rw [noDues] at due
    cases due

/-- Such an end does what it does with no comparator firing, every Watch Hit offered in comparator order,
and the target Halted where a halt of it was called for. -/
theorem takeJobs_quietEnd {hits : List Notice} {work : List Job}
    (watched : WatchedEnd o t halts (QuietStage t fault halts own hif s y))
    (tasks : ∀ c, queueOf work c = watchTasks o t hits halts own hif c)
    (some : own ++ hif ≠ []) :
    ∃ n, takeJobs work s = noting (offers s.nq hits) n (haltedAs t fault y (decide (halts ≠ []))) := by
  obtain ⟨n, offered, told, halted, z, ran, ⟨silent, k, -, at_⟩, last, perm, order⟩ :=
    watched.takeJobs tasks ⟨rfl, 0, fun no => absurd no (by decide), .inl ⟨rfl, (List.append_nil _).symm, rfl⟩⟩
  obtain rfl : offered = hits := by
    rw [silent, List.append_nil] at perm
    exact (order.eq_of_length perm.length_eq.symm).symm
  obtain rfl : halted = decide (halts ≠ []) := by
    rw [Bool.eq_iff_iff, last, decide_eq_true_iff]
  obtain ⟨ours, theirs, -⟩ | ⟨-, -, rfl⟩ := at_
  · refine absurd ?_ some
    rw [← ours, (List.append_eq_nil_iff.1 theirs.symm).1]
    rfl
  · exact ⟨n, ran⟩

/-- Such an end, whichever block is its owner. -/
theorem takeJobs_watched {u : State} (opened : s.admission a.target = .opened ∧ y.admission a.target = .opened)
    (first : ∀ f later, haltsOn u a = f :: later → f = fault)
    (takes : ∀ halted q n, (halted = true → haltsOn u a ≠ []) → takeEnd a (noting q n
        (haltedAs a.target fault s halted)) = (noting q n (haltedAs a.target fault y halted), []))
    (none : haltsOn u a ≠ [] → holdsNoneOf s a.target ∧ holdsNoneOf y a.target)
    (quiet : s.departureDues = [] ∧ y.departureDues = []) :
    ∃ n, takeJobs (⟨a.request.owner, .takeEnd a⟩ :: u.watchJobs a) s
      = noting (offers s.nq (hitsOn u a)) n
        (haltedAs a.target fault y (decide (haltsOn u a ≠ []))) := by
  by_cases atHif : a.request.owner = .hif
  · rw [atHif]
    exact takeJobs_quietEnd (quiet_watchedEnd (o := .wq) (by decide) opened first (.inr ⟨rfl, rfl⟩) takes
      none quiet) (queueOf_watched_hif u a) nofun
  · have owner : a.request.owner ≠ .wu ∧ a.request.owner ≠ .tt ∧ a.request.owner ≠ .hif :=
      ⟨owner_ne_wu a.request, owner_ne_tt a.request, atHif⟩
    exact takeJobs_quietEnd (quiet_watchedEnd owner opened first (.inl ⟨rfl, rfl⟩) takes none quiet)
      (queueOf_watched_own u a owner) nofun

end

end Sys2Proof.Machine
end

section
/-! What firing comparators add to an end, and the held write they may find (R32, R93, R128 to R131). -/

namespace Sys2Proof.Machine

/-! ## The targets after an end (R129, R131) -/

/-- The one halt recorded is that of the first comparator that halts. -/
theorem exists_watchedFault (u : State) (a : Access) : ∃ fault,
    (∀ f later, haltsOn u a = f :: later → f = fault)
      ∧ watchedTargets u a = (haltedAs a.target fault u (decide (haltsOn u a ≠ []))).targets := by
  cases halting : haltingOn u a with
  | none =>
    refine ⟨a.fault, ?_, ?_⟩
    · rw [haltsOn_of_none halting]
      nofun
    · rw [haltsOn_of_none halting, watchedTargets, halting]
      rfl
  | some n =>
    obtain ⟨later, halts⟩ := haltsOn_of_some halting
    refine ⟨a.watchFault n, fun f later' same => ?_, ?_⟩
    · rw [halts] at same
      exact (List.cons.inj same).1.symm
    · rw [halts, watchedTargets, halting]
      rfl

/-! ## The end with the comparators disarmed -/

/-- The comparators, all disarmed. -/
def disarmed (u : State) : State := { u with wu := u.wu.map fun c => { c with armed := false } }

theorem arrive_disarmed {u : State} (settled : Settled u) :
    arrive (disarmed u) = newArrival (newStep (disarmed u)) :=
  arrive_of_settled (s := disarmed u) settled

theorem noneFires_disarmed (u : State) (a : Access) : noneFires (newArrival (newStep (disarmed u))) a := by
  intro n
  have off : ((newArrival (newStep (disarmed u))).wu[n]).armed = false := by
    simp [newArrival, newStep, disarmed]
  refine not_fires_of_miss ?_
  rw [Comparator.matchesAccess, off]
  rfl

/-- The end with the comparators disarmed, taken by its owner. -/
theorem exec_accessEnd_disarmed {u t y : State} {a : Access} (settled : Settled u)
    (ends : endsWith u a .done) (quiet : (freeBus a u).departureDues = [])
    (take : takeEnd a (ended a (newArrival (newStep (disarmed u)))) = (y, []))
    (ran : exec .accessEnd (disarmed u) = .next t) : t = y := by
  have done : a.result = some .done := ends.2.2.1
  have ends' : endsWith (newArrival (newStep (disarmed u))) a .done := ends
  have quiet' : (ended a (newArrival (newStep (disarmed u)))).departureDues = [] := by
    rw [ended_of_done done]
    exact quiet
  rw [exec_accessEnd_of_watch (arrive_disarmed settled) ends', watchJobs_of_none (noneFires_disarmed u a),
    takeJobs_single (j := ⟨_, .takeEnd a⟩) quiet' take, takeJobs_nil] at ran
  exact (Host.Outcome.next.inj ran).symm

theorem noting_haltedAs_ended {u : State} {a : Access} (done : a.result = some .done)
    (t : Target) (fault : FaultRecord) (halted : Bool) (q : NoticeQueue) (n : Nat) :
    noting q n (haltedAs t fault (ended a u) halted)
      = recast (u.wu.map fun c : Comparator => c.after a) (haltedAs t fault u halted).targets
        u.hif.replies q n (ended a (newArrival (newStep (disarmed u)))) := by
  rw [ended_of_done done, ended_of_done done]
  cases halted <;> simp only [recast, noting, haltedAs, newArrival, newStep, disarmed, freeBus, List.append_nil] <;> rfl

/-- What the end with the comparators disarmed comes to, with the comparators counted and the host cycles
answered that this end finds. -/
def afterEnd (u : State) (a : Access) (t : State) : State :=
  recast (u.wu.map fun c : Comparator => c.after a) u.targets u.hif.replies u.nq u.choices t

section
variable {u t : State} {a : Access} {fault : FaultRecord}

/-- The owner takes the end as it does with the comparators disarmed, before a halt and after it. -/
theorem takeEnd_watched (settled : Settled u) (ends : endsWith u a .done)
    (opened : u.admission a.target = .opened)
    (read : a.request = .heldRead → ∀ r, u.heldRead? = some r → r.cycle = .opened ∧ r.target = a.target)
    (silent : ∀ k, a.request = .fetch k →
      a.half = .low ∨ u.fs[k].notify = false ∨ u.fs[k].state = .cancelling)
    (quiet : (freeBus a u).departureDues = []) (ran : exec .accessEnd (disarmed u) = .next t)
    {halted : Bool} (none : halted = true → holdsNoneOf t a.target) (q : NoticeQueue) (n : Nat) :
    takeEnd a (noting q n (haltedAs a.target fault (ended a u) halted))
      = (noting q n (haltedAs a.target fault (afterEnd u a t) halted), []) := by
  have done : a.result = some .done := ends.2.2.1
  obtain ⟨x, isEnd⟩ : ∃ x, x = ended a (newArrival (newStep (disarmed u))) := ⟨_, rfl⟩
  have same := ended_of_done (s := newArrival (newStep (disarmed u))) done
  have heldSame : x.heldRead? = u.heldRead? := by rw [isEnd, same]; rfl
  have slots : x.fs = u.fs := by rw [isEnd, same]; rfl
  have targets : x.targets = u.targets := by rw [isEnd, same]; rfl
  have read' (request : a.request = .heldRead) (r : HeldRead) (held : x.heldRead? = some r) :=
    read request r (heldSame ▸ held)
  have notHalted (request : a.request = .heldRead) (r : HeldRead) (held : x.heldRead? = some r) :
      (x.admission r.target).isHalted = false := by
    rw [(read' request r held).2, State.admission, targets]
    exact congrArg Admission.isHalted opened
  obtain ⟨y, takes⟩ := takeEnd_recast (x := x) done (fun request r held => (read' request r held).1)
    (fun k request => by rw [slots]; exact silent k request)
  have taken : takeEnd a x = (recast x.wu x.targets [] x.nq x.choices y, []) :=
    takes x.wu x.targets [] x.nq x.choices fun request _ => notHalted request
  obtain rfl : t = recast x.wu x.targets [] x.nq x.choices y :=
    exec_accessEnd_disarmed settled ends quiet (by rw [← isEnd]; exact taken) ran
  have cond (request : a.request = .heldRead) (low : a.half = .low) (r : HeldRead)
      (held : x.heldRead? = some r) :
      ((haltedAs a.target fault u halted).targets[r.target] : TargetEntry).admission.isHalted = false := by
    obtain ⟨cycle, target⟩ := read' request r held
    cases halted with
    | false =>
      have isOpened : u.admission r.target = .opened := by rw [target]; exact opened
      exact congrArg Admission.isHalted isOpened
    | true =>
      rw [takeEnd, request] at taken
      have waits := hifTakesEnd_of_low held done cycle low (notHalted request r held)
      obtain ⟨-, noRead⟩ := none rfl
      rw [← (Prod.mk.inj (waits.symm.trans taken)).1] at noRead
      rcases noRead (r.lowTaken a) rfl with other | issued
      · exact absurd target other
      · cases issued
  rw [noting_haltedAs_ended done, ← isEnd, takes _ _ _ _ _ cond]
  cases halted <;> rfl

/-- The end beside the Watch Hits and the halt. -/
theorem exec_accessEnd_watched {s : State} (met : arrive s = u)
    (ends : endsWith u a .done) (opened : u.admission a.target = .opened)
    (read : a.request = .heldRead → ∀ r, u.heldRead? = some r → r.cycle = .opened ∧ r.target = a.target)
    (silent : ∀ k, a.request = .fetch k →
      a.half = .low ∨ u.fs[k].notify = false ∨ u.fs[k].state = .cancelling)
    (quiet : (freeBus a u).departureDues = []) (ran : exec .accessEnd (disarmed u) = .next t)
    (left : t.departureDues = [])
    (none : haltingOn u a = none ∨ holdsNoneOf u a.target ∧ holdsNoneOf t a.target) :
    ∃ choices, exec .accessEnd s = .next { t with
      choices := choices
      wu := u.wu.map fun c : Comparator => c.after a
      targets := watchedTargets u a
      nq := (hitsOn u a).foldl (·.offer ·) u.nq
      hif := { t.hif with replies := u.hif.replies ++ t.hif.replies } } := by
  have done : a.result = some .done := ends.2.2.1
  have settled : Settled u := met ▸ settled_arrive s
  obtain ⟨fault, first, targets⟩ := exists_watchedFault u a
  have holdsNone : haltsOn u a ≠ [] → holdsNoneOf u a.target ∧ holdsNoneOf t a.target := fun some =>
    none.resolve_left fun no => some (haltsOn_of_none no)
  have same := ended_of_done (s := u) done
  have openedEnd : (ended a u).admission a.target = .opened := by rw [same]; exact opened
  have quietEnd : (ended a u).departureDues = [] := by rw [same]; exact quiet
  have noneEnd (some : haltsOn u a ≠ []) : holdsNoneOf (ended a u) a.target := by
    rw [same]
    exact (holdsNone some).1
  obtain ⟨n, last⟩ := takeJobs_watched (u := u) (s := ended a u) (y := afterEnd u a t) ⟨openedEnd, opened⟩
    first (fun halted q n called => takeEnd_watched settled ends opened read silent quiet ran
      (fun yes => (holdsNone (called yes)).2) q n)
    (fun some => ⟨noneEnd some, (holdsNone some).2⟩) ⟨quietEnd, left⟩
  refine ⟨n, ?_⟩
  rw [exec_accessEnd_of_watch met ends, last, targets, same]
  refine congrArg Host.Outcome.next ?_
  cases decide (haltsOn u a ≠ []) <;> rfl

end

end Sys2Proof.Machine
end

section
/-! A comparator that halts the target of a held write for which the access's end makes room: the HIF takes
either first (R30, R32). -/

namespace Sys2Proof.Machine

/-! ## The two ends of the held write -/

/-- The held write is refused because its target is Halted, but for the notice (R32). -/
def refusedWrite (w : HeldWrite) (s : State) : State :=
  reply (.apertureWrite w.offset .busError) (endHold s)

/-- The held write is entered (R30). -/
def enteredWrite (w : HeldWrite) (s : State) : State :=
  reply (.apertureWrite w.offset (.ready 0)) (enterWrite w (endHold s))

/-- An entry that leaves after the write is refused leaves no re-check due. -/
theorem leaveQueue_refusedWrite {w : HeldWrite} {s : State} (held : s.heldWrite? = some w) (pn : PN) :
    leaveQueue [pn] false (refusedWrite w s) = refusedWrite w (leaveQueue [pn] false s) := by
  have hif : s.hif.queueDeparture = { s.hif with recheckDue := true } := by
    unfold HostInterface.queueDeparture
    split
    · rfl
    · next other => exact absurd (heldWrite_eq_some_iff.1 held) (other w)
  simp only [leaveQueue, refusedWrite, reply, endHold, depart, markFreed, List.isEmpty_cons,
    Bool.false_eq_true, if_false, hif]
  rfl

/-! ## What is due -/

theorem dues_of_recheck {s : State} (only : s.departureDues = [.recheck]) :
    s.fenceDue? = none ∧ ∀ t, s.attentionDue t = false := by
  refine ⟨?_, fun t => Bool.eq_false_iff.2 fun due => ?_⟩
  · cases due : s.fenceDue? with
    | none => rfl
    | some f =>
      have mem : Due.fence ∈ s.departureDues := mem_departureDues.2 (.inl ⟨rfl, by rw [due]; rfl⟩)
      rw [only] at mem
      cases List.mem_singleton.1 mem
  · have mem : Due.attention t ∈ s.departureDues := mem_departureDues.2 (.inr (.inl ⟨t, rfl, due⟩))
    rw [only] at mem
    cases List.mem_singleton.1 mem

theorem departureDues_refusedWrite {s : State}
    (undue : s.fenceDue? = none ∧ ∀ t, s.attentionDue t = false)
    (running : s.bc.state = .running) (w : HeldWrite) : (refusedWrite w s).departureDues = [] := by
  obtain ⟨fence, attention⟩ := undue
  refine departureDues_eq_nil_iff.2 ⟨fence, attention, rfl, Bool.eq_false_iff.2 fun due => ?_⟩
  have quiescing : s.bc.state = .quiescing := (quiescedDue_iff.1 due).1
  rw [running] at quiescing
  cases quiescing

/-- The write entered is no fence, and with room no fence bears its number. -/
theorem departureDues_enteredWrite {s : State} (only : s.departureDues = [.recheck])
    (running : s.bc.state = .running) (room : hasRoom s.wq) (w : HeldWrite) :
    (enteredWrite w s).departureDues = [] := by
  obtain ⟨fence, attention⟩ := dues_of_recheck only
  refine departureDues_eq_nil_iff.2 ⟨fenceDue_eq_none_iff.2 ?_, attention, rfl,
    Bool.eq_false_iff.2 fun due => ?_⟩
  · intro live f present r found
    have present' : .fence f ∈ s.wq.entries := by
      rcases List.mem_append.1 present with old | new
      · exact old
      · cases List.mem_singleton.1 new
    have other : f.pn ≠ s.wq.nextPn := room.2 _ present'
    refine fenceDue_eq_none_iff.1 fence live f present' r ?_
    have notNew : ¬ (RequestId.entry s.wq.nextPn == RequestId.entry f.pn) = true := by
      simpa using fun same => other same.symm
    have found' : (s.ou ++ [(⟨.entry s.wq.nextPn, some w.target, s.waitSetOf (some w.target)⟩ :
        PresentRequest)]).find? (·.id == RequestId.entry f.pn) = some r := found
    rw [List.find?_append, List.find?_singleton, if_neg notNew, Option.or_none] at found'
    exact found'
  · have quiescing : s.bc.state = .quiescing := (quiescedDue_iff.1 due).1
    rw [running] at quiescing
    cases quiescing

/-! ## The stages -/

/-- The stages of the held write: the end is to be taken, and the write held or refused; or it is taken, and
the write held, refused or entered. `left` is the state once the entry has left. -/
def RoomStage (a : Access) (w : HeldWrite) (fault : FaultRecord) (s left : State) (halted : Bool)
    (own hif : List Task) (told : List Notice) (x : State) : Prop :=
  (∃ ended : Bool, own = (if ended then [] else [.takeEnd a])
      ∧ ((hif = (if halted then [.seeHalt w.target] else []) ∧ told = []
          ∧ x = haltedAs w.target fault (if ended then left else s) halted)
        ∨ (halted = true ∧ Residue w.target (.refused w.target w.offset .halted .write) hif told
          ∧ x = refusedWrite w (haltedAs w.target fault (if ended then left else s) true))))
    ∨ (own = [] ∧ (∃ k, hif = List.replicate k (.seeHalt w.target)) ∧ told = []
      ∧ x = haltedAs w.target fault (enteredWrite w left) halted)

section
variable {a : Access} {w : HeldWrite} {fault : FaultRecord} {later : List FaultRecord} {s left : State}

theorem departureDues_haltedAs (t : Target) (x : State) (halted : Bool) :
    (haltedAs t fault x halted).departureDues = x.departureDues := by
  cases halted <;> rfl

theorem refusedWrite_halted (t : Target) (x : State) :
    refusedWrite w (haltedAs t fault x true) = haltedAs t fault (refusedWrite w x) true := rfl

theorem room_watchedEnd (opened : s.admission w.target = .opened ∧ left.admission w.target = .opened)
    (held : s.heldWrite? = some w ∧ left.heldWrite? = some w)
    (takes : ∀ q n halted, takeEnd a (noting q n (haltedAs w.target fault s halted))
      = (noting q n (haltedAs w.target fault left halted), []))
    (takesRefused : ∀ q n, takeEnd a (noting q n (refusedWrite w (haltedAs w.target fault s true)))
      = (noting q n (refusedWrite w (haltedAs w.target fault left true)), []))
    (running : left.bc.state = .running) (room : hasRoom left.wq)
    (quiet : s.departureDues = [] ∧ (refusedWrite w s).departureDues = [])
    (only : left.departureDues = [.recheck]) :
    WatchedEnd .wq w.target (fault :: later) (RoomStage a w fault s left) where
  owner := by decide
  opened := by
    rintro own hif told x (⟨ended, -, ⟨-, -, rfl⟩ | ⟨no, -⟩⟩ | ⟨-, -, -, rfl⟩)
    · cases ended
      · exact opened.1
      · exact opened.2
    · cases no
    · exact opened.2
  isHalted := by
    rintro own hif told x (⟨ended, -, ⟨-, -, rfl⟩ | ⟨-, -, rfl⟩⟩ | ⟨-, -, -, rfl⟩)
    · exact ⟨_, haltedAs_isHalted ..⟩
    · exact ⟨_, haltedAs_isHalted w.target fault (refusedWrite w _)⟩
    · exact ⟨_, haltedAs_isHalted ..⟩
  halts := by
    rintro f others own hif told x first
      (⟨ended, ours, ⟨rfl, silent, rfl⟩ | ⟨no, -⟩⟩ | ⟨ours, ⟨k, rfl⟩, silent, rfl⟩)
    · obtain ⟨rfl, -⟩ := List.cons.inj first
      exact .inl ⟨ended, ours, .inl ⟨rfl, silent, rfl⟩⟩
    · cases no
    · obtain ⟨rfl, -⟩ := List.cons.inj first
      exact .inr ⟨ours, ⟨k + 1, List.replicate_succ'.symm⟩, silent, rfl⟩
  takesOwn := by
    rintro halted task own hif told x (⟨ended, ours, at_⟩ | ⟨none, -⟩)
    · cases ended with
      | true => cases ours
      | false =>
        obtain ⟨rfl, rfl⟩ := List.cons.inj ours
        obtain ⟨tasks, silent, rfl⟩ | ⟨rfl, residue, rfl⟩ := at_
        · exact ⟨_, fun q n => takes q n halted, .inl ⟨true, rfl, .inl ⟨tasks, silent, rfl⟩⟩⟩
        · exact ⟨_, takesRefused, .inl ⟨true, rfl, .inr ⟨rfl, residue, rfl⟩⟩⟩
    · cases none
  takesHif := by
    rintro halted own task hif told x (⟨ended, ours, ⟨tasks, rfl, rfl⟩ | ⟨rfl, residue, rfl⟩⟩ |
      ⟨ours, ⟨k, tasks⟩, rfl, rfl⟩)
    · cases halted with
      | false => cases tasks
      | true =>
        obtain ⟨rfl, rfl⟩ := List.cons.inj tasks
        refine .inr ⟨_, [.refused w.target w.offset .halted .write], fun q n => ?_,
          .inl ⟨ended, ours, .inr ⟨rfl, residue_offer, rfl⟩⟩⟩
        have heldHere : (if ended then left else s).heldWrite? = some w := by
          cases ended
          · exact held.1
          · exact held.2
        exact seeHalt_of_write (s := noting q n (haltedAs w.target fault _ true)) heldHere
    · obtain ⟨rfl, rest⟩ | ⟨rfl, rest⟩ := residue.cons
      · refine .inr ⟨_, [], fun q n => seeHalt_of_empty
          (s := noting q n (refusedWrite w _)) (t := w.target) rfl,
          .inl ⟨ended, ours, .inr ⟨rfl, ?_, rfl⟩⟩⟩
        rw [List.map_nil, List.append_nil]
        exact rest
      · exact .inl ⟨_, rfl, .inl ⟨ended, ours, .inr ⟨rfl, rest, rfl⟩⟩⟩
    · cases k with
      | zero => cases tasks
      | succ k =>
        obtain ⟨rfl, rfl⟩ := List.cons.inj tasks
        refine .inr ⟨_, [], fun q n => seeHalt_of_empty
          (s := noting q n (haltedAs w.target fault (enteredWrite w left) halted)) ?_,
          .inr ⟨ours, ⟨k, List.append_nil _⟩, rfl, rfl⟩⟩
        cases halted <;> rfl
  takesDue := by
    rintro halted own hif told x d (⟨ended, ours, ⟨tasks, rfl, rfl⟩ | ⟨rfl, -, rfl⟩⟩ | ⟨-, -, -, rfl⟩) due
    · rw [departureDues_haltedAs] at due
      cases ended with
      | false =>
        rw [if_neg (by decide), quiet.1] at due
        cases due
      | true =>
        rw [if_pos rfl, only] at due
        obtain rfl := List.mem_singleton.1 due
        refine ⟨rfl, fun none => ?_⟩
        cases halted with
        | true => rw [none] at tasks; cases tasks
        | false =>
          refine ⟨enteredWrite w left, [], fun q n => ?_, .inr ⟨ours, ⟨0, rfl⟩, rfl, rfl⟩⟩
          refine (recheckHeldWrite_of_opened (s := noting q n left) held.2 running opened.2).trans ?_
          exact if_pos (room_iff.2 room)
    · rw [refusedWrite_halted, departureDues_haltedAs] at due
      cases ended with
      | false =>
        rw [if_neg (by decide), quiet.2] at due
        cases due
      | true =>
        rw [if_pos rfl, departureDues_refusedWrite (dues_of_recheck only) running] at due
        cases due
    · rw [departureDues_haltedAs, departureDues_enteredWrite only running room] at due
      cases due

/-- The write is entered before the halt is recorded, or refused once it is seen. -/
theorem takeJobs_room {work : List Job} {hit : Notice}
    (watched : WatchedEnd .wq w.target (fault :: later) (RoomStage a w fault s left))
    (tasks : ∀ c, queueOf work c = watchTasks .wq w.target [hit] (fault :: later) [.takeEnd a] [] c) :
    ∃ n, takeJobs work s = noting (s.nq.offer hit) n (haltedAs w.target fault (enteredWrite w left) true)
      ∨ ∃ nq, (nq = (s.nq.offer hit).offer (.refused w.target w.offset .halted .write)
          ∨ nq = (s.nq.offer (.refused w.target w.offset .halted .write)).offer hit)
        ∧ takeJobs work s = noting nq n (refusedWrite w (haltedAs w.target fault left true)) := by
  obtain ⟨n, offered, told, halted, y, ran, stage, last, perm, -⟩ :=
    watched.takeJobs tasks (.inl ⟨false, rfl, .inl ⟨rfl, rfl, rfl⟩⟩)
  obtain rfl : halted = true := last.2 nofun
  refine ⟨n, ?_⟩
  obtain ⟨ended, ours, ⟨none, -⟩ | ⟨-, residue, rfl⟩⟩ | ⟨-, -, rfl, rfl⟩ := stage
  · cases none
  · cases ended with
    | false => cases ours
    | true =>
      obtain rfl := residue.nil
      refine .inr ⟨_, ?_, ran⟩
      obtain rfl | rfl := List.perm_pair.1 perm
      · exact .inl rfl
      · exact .inr rfl
  · obtain rfl := List.perm_singleton.1 perm
    exact .inl ran

end

/-! ## The end of the access -/

theorem waitSetOf_setAdmission (s : State) (t : Target) (x : Admission) (y : Option Target) :
    (s.setAdmission t x).waitSetOf y = s.waitSetOf y := by
  have waits (z : Option Target) : (s.setAdmission t x).waitsFor y z = s.waitsFor y z := by
    unfold State.waitsFor
    simp only [live_setAdmission]
  simp only [State.waitSetOf, waits]
  rfl

theorem enteredWrite_setAdmission (w : HeldWrite) (s : State) (t : Target) (x : Admission) :
    enteredWrite w (s.setAdmission t x) = (enteredWrite w s).setAdmission t x := by
  refine congrArg (fun members : List RequestId => reply (.apertureWrite w.offset (.ready 0))
    { endHold (s.setAdmission t x) with
      wq := (enterWrite w s).wq
      ou := s.ou ++ [⟨.entry s.wq.nextPn, some w.target, members⟩] })
    (waitSetOf_setAdmission s t x (some w.target))

section
variable {s u : State} {a : Access} {n : ComparatorNo} {pn : PN} {e : WriteEntry} {w : HeldWrite}
  {hit : Notice}

theorem leaveQueue_replies (pns : List PN) (dropped : Bool) (s : State) :
    (leaveQueue pns dropped s).hif.replies = s.hif.replies := by
  rw [leaveQueue_hif_eq]

/-- The state the entry leaves, its target Halted. -/
theorem left_eq_haltedAs (done : a.result = some .done) (halting : haltingOn u a = some n) :
    leaveQueue [pn] false { freeBus a u with
        wu := u.wu.map fun c : Comparator => c.after a, targets := watchedTargets u a }
      = haltedAs a.target (a.watchFault n) (leaveQueue [pn] false (ended a u)) true := by
  have targets : watchedTargets u a = (u.setAdmission a.target (.halted (a.watchFault n))).targets := by
    rw [watchedTargets, halting]
    rfl
  rw [targets, ended_of_done done]
  rfl

theorem room_watchedEnd_of_ends (settled : u.departureDues = []) (ends : endsWith u a .done)
    (request : a.request = .entry pn) (found : u.wq.find pn = some e) (last : a.half ≠ .low)
    (held : u.heldWrite? = some w) (target : w.target = a.target) (opened : u.admission a.target = .opened)
    (running : u.bc.state = .running) (room : hasRoom (leaveQueue [pn] false (ended a u)).wq)
    (only : (leaveQueue [pn] false (ended a u)).departureDues = [.recheck]) (fault : FaultRecord)
    (later : List FaultRecord) : WatchedEnd .wq w.target (fault :: later)
      (RoomStage a w fault (ended a u) (leaveQueue [pn] false (ended a u))) := by
  have done : a.result = some .done := ends.2.2.1
  have same := ended_of_done (s := u) done
  have quiet := departureDues_ended (a := a) settled (.inl (entries_ne_nil_of_find found))
  obtain ⟨fence, attention, -, -⟩ := departureDues_eq_nil_iff.1 quiet
  have found' : (ended a u).wq.find pn = some e := by rw [same]; exact found
  have held' : (ended a u).heldWrite? = some w := by rw [same]; exact held
  have heldLeft : (leaveQueue [pn] false (ended a u)).heldWrite? = some w := by
    rw [heldWrite_eq_some_iff, leaveQueue_hif_eq]
    exact heldWrite_eq_some_iff.1 held'
  have opened' : (ended a u).admission w.target = .opened := by rw [same, target]; exact opened
  have running' : (ended a u).bc.state = .running := by rw [same]; exact running
  refine room_watchedEnd ⟨opened', opened'⟩ ⟨held', heldLeft⟩ (fun q m halted => ?_) (fun q m => ?_)
    running' room ⟨quiet, departureDues_refusedWrite ⟨fence, attention⟩ running' w⟩ only
  · have here : (noting q m (haltedAs w.target fault (ended a u) halted)).wq.find pn = some e := by
      cases halted <;> exact found'
    rw [takeEnd, request]
    refine (wqTakesEnd_of_last here done last).trans (congrArg (·, []) ?_)
    cases halted <;> rfl
  · rw [takeEnd, request]
    refine (wqTakesEnd_of_last (s := noting q m (refusedWrite w (haltedAs w.target fault (ended a u) true)))
      found' done last).trans (congrArg (·, []) ?_)
    exact congrArg (noting q m) (leaveQueue_refusedWrite
      (s := haltedAs w.target fault (ended a u) true) held' pn)

/-- The held write for which the end makes room is entered, or refused, in either order with the Watch Hit. -/
theorem exec_accessEnd_room {left : State} (met : arrive s = u) (ends : endsWith u a .done)
    (request : a.request = .entry pn) (found : u.wq.find pn = some e) (last : a.half ≠ .low)
    (halting : haltingOn u a = some n) (hits : hitsOn u a = [hit])
    (held : u.heldWrite? = some w) (target : w.target = a.target) (opened : u.admission a.target = .opened)
    (running : u.bc.state = .running)
    (isLeft : left = haltedAs a.target (a.watchFault n) (leaveQueue [pn] false (ended a u)) true)
    (room : hasRoom left.wq) (only : left.departureDues = [.recheck]) :
    ∃ m, exec .accessEnd s = .next (noting (u.nq.offer hit) m (enteredWrite w left))
      ∨ ∃ nq, (nq = (u.nq.offer hit).offer (.refused w.target w.offset .halted .write)
          ∨ nq = (u.nq.offer (.refused w.target w.offset .halted .write)).offer hit)
        ∧ exec .accessEnd s = .next (noting nq m (refusedWrite w left)) := by
  have done : a.result = some .done := ends.2.2.1
  have settled : u.departureDues = [] := met ▸ departureDues_arrive s
  have notices : (ended a u).nq = u.nq := by rw [ended_of_done done]; rfl
  obtain ⟨later, halts⟩ := haltsOn_of_some halting
  subst isLeft
  rw [departureDues_haltedAs] at only
  have tasks := queueOf_watched_own u a (o := .wq) (by decide)
  rw [hits, halts, ← target] at tasks
  obtain ⟨m, order⟩ := takeJobs_room (room_watchedEnd_of_ends settled ends request found last held target
    opened running room only (a.watchFault n) later) tasks
  rw [notices] at order
  refine ⟨m, ?_⟩
  rw [exec_accessEnd_of_watch met ends, request, ← target]
  refine order.imp (fun entered => ?_) fun ⟨nq, inOrder, refused⟩ => ⟨nq, inOrder, ?_⟩
  · refine congrArg Host.Outcome.next (entered.trans (congrArg (noting _ m) ?_))
    exact (enteredWrite_setAdmission ..).symm
  · exact congrArg Host.Outcome.next refused

/-- What the write entered comes to, field by field. -/
theorem noting_enteredWrite {left : State} (q : NoticeQueue) (m : Nat) {before : List HostReply}
    (replies : left.hif.replies = before) :
    noting q m (enteredWrite w left) = { withWriteEntered w.target w.offset w.lanes w.data left with
      choices := m, nq := q
      hif := { left.hif with
        held := none, holdTimer := none, recheckDue := false
        replies := before ++ [.apertureWrite w.offset (.ready 0)] } } := by
  subst replies
  rfl

theorem noting_refusedWrite {left : State} (q : NoticeQueue) (m : Nat) {before : List HostReply}
    (replies : left.hif.replies = before) :
    noting q m (refusedWrite w left) = { left with
      choices := m, nq := q
      hif := { left.hif with
        held := none, holdTimer := none, recheckDue := false
        replies := before ++ [.apertureWrite w.offset .busError] } } := by
  subst replies
  rfl

end

/-- Settles O49: the first halt is the one recorded; the Watch Hits and the halt beside an end that offers
nothing; and the held write that is entered, or refused because its target is Halted. -/
theorem watchFiring : Obligations.WatchFiring := by
  refine ⟨fun s a n => ?_, fun s t a => ?_, fun s a n pn e w => ?_⟩
  · intro u ends first opened
    obtain ⟨t, ran, targets⟩ := targets_of_watch rfl ends first opened
    have admission (x : Target) : t.admission x
        = if x = a.target then .halted (a.watchFault n) else u.admission x := by
      rw [State.admission, targets]
      exact admission_setAdmission u a.target x _
    refine ⟨t, ran, fun pn request => ?_, fun read => ?_, fun x other => (admission x).trans (if_neg other)⟩
    · rw [admission, if_pos rfl, Access.watchFault, Access.pn?, request]
    · rw [admission, if_pos rfl, Access.watchFault, Access.pn?]
      cases request : a.request with
      | entry pn => exact absurd request (read pn)
      | heldRead => rfl
      | fetch k => rfl
  · intro u quiet ends opened read silent calm ran left none
    exact exec_accessEnd_watched rfl ends opened read silent calm ran left none
  · intro u left free hit refused ends request found last halting hits held target opened running only
      room
    have isLeft := left_eq_haltedAs (pn := pn) ends.2.2.1 halting
    have replies : left.hif.replies = u.hif.replies := leaveQueue_replies ..
    obtain ⟨m, order⟩ := exec_accessEnd_room rfl ends request found last halting hits held target opened
      running isLeft room only
    refine ⟨m, order.imp (fun entered => ?_) fun ⟨nq, inOrder, ran⟩ => ⟨nq, inOrder, ?_⟩⟩
    · exact entered.trans (congrArg Host.Outcome.next (noting_enteredWrite _ m replies))
    · exact ran.trans (congrArg Host.Outcome.next (noting_refusedWrite nq m replies))

end Sys2Proof.Machine
end
